-- ==== Sys2Proof/Word.lean ====
section
/-!
DEFINITION. Words and lanes (spec/00_scope.md R6, R10, R13).
Every operand, result and state register is one unsigned 64-bit word; bit 0 has weight 1.
The arithmetic of R11 is BitVec's own: `+` wraps modulo 2^64, `^^^` is exclusive or, `<` is unsigned.
-/
namespace Sys2Proof

/-- R10, `XLEN` = 64: one word. -/
abbrev Word := BitVec 64

/-- R9, `HDRW` = 8: the header of a command frame. -/
abbrev Header := BitVec 8

/-- R13: the lanes of an `n`-lane unit, indexed 0 to `n - 1` in fixed order (a = 0, b = 1, ...). -/
abbrev Lanes (n : Nat) := Vector Word n

end Sys2Proof
end

