-- ==== Sys2Proof/Machine/Flags.lean ====
section
/-!
DEFINITION. The block has no flags, condition codes or predicates (spec/10_state.md R29). The one carry any rule speaks
of is local to the reference multiplier (spec/40_wide_mult.md R82); it is computed here and recorded nowhere.
-/
namespace Sys2Proof.Machine

/-- R82: a wrapped 64-bit sum and whether it wrapped, told by "smaller than either operand". -/
def addWithCarry (a b : Word) : Word × Bool := (a + b, decide (a + b < a))

end Sys2Proof.Machine
end

