-- ==== Sys2Proof/Config.lean ====
section
/-!
DEFINITION. What is fixed for one block and what the spec leaves open: the 25 constants (spec/00_scope.md R7, R8),
`MAX_BLOCK_LEN` (R9), and the free words the registers hold after a reset (spec/10_state.md R33).
-/
namespace Sys2Proof

/-- R7: the 25 constants the source names and gives no value of, and the one fact it gives of them, R8 (b): the four
`F256_K[i]` are pairwise distinct. Nothing else is known: neither oddness, nor size, nor any other equality or
inequality (R8 (c), (d), (e)). The default values of `f256K` serve only to show that the record has an element; no
meaning reads them. DESIGN CHOICE (log entry 1), safe. -/
structure Constants where
  /-- `F64_INIT_PRODUCT`: what `F64.BEGIN` loads into `F64.product`. -/
  f64InitProduct : Word
  /-- `F64_INIT_SUM`: what `F64.BEGIN` loads into `F64.sum`. -/
  f64InitSum : Word
  /-- `F64_K`: the multiplier of `F64.WORD`. -/
  f64K : Word
  /-- `F256_INIT_RESULT[i]`: what `F256.BEGIN` loads into `F256.result[i]`. -/
  f256InitResult : Lanes 4
  /-- `F256_INIT_SUM[i]`: what `F256.BEGIN` loads into `F256.sum[i]`. -/
  f256InitSum : Lanes 4
  /-- `F256_K[i]`: the multiplier of lane i in `F256.WORD`. -/
  f256K : Lanes 4 := #v[0, 1, 2, 3]
  /-- R8 (b): "Each lane uses a distinct fixed multiplier constant". -/
  f256K_distinct : f256K.toList.Nodup := by decide
  /-- `R64_INIT_SUM`: what `R64.SEED` loads into `R64.sum`. -/
  r64InitSum : Word
  /-- `R64_K`: the multiplier of `R64.DRAW`. -/
  r64K : Word
  /-- `S64_K[i]`: the multiplier of lane i in `S64.DRAW`. -/
  s64K : Lanes 8
deriving DecidableEq, Repr, Inhabited

/-- R7, R8 (a): the block's own constants, fixed for its life. No value of any of them can be proved: a claim about the
machine holds for every value. DESIGN CHOICE (log entry 1), safe. -/
opaque Config.constants : Constants

/-- R33: the word that register number `k` (INVENTORY.md, State) holds after reset number `g`. Some word, the same each
time it is read, not known, not promised equal between two resets. DESIGN CHOICE (log entry 2). -/
opaque Config.resetWord : (g k : Nat) → Word

/-- R9, R143, spec/92_eei_decisions.md D24: `MAX_BLOCK_LEN`. "The model takes `MAX_BLOCK_LEN` as unbounded" (R143):
`none`. An implementation that bounds it has `some B`; what it does then is `decodeWith (some B)`. Log entry 6. -/
def Config.maxBlockLen : Option Nat := none

end Sys2Proof
end

