-- ==== Sys2Proof/Syntax.lean ====
section
/-!
DEFINITION. Command frames, instructions and responses as data (spec/30_encoding.md R56, R58, R61, R62).
-/
namespace Sys2Proof

/-- R1, R56: the five units, in the order of their `UNIT` codes. -/
inductive Block where
  /-- `wide_mult`, stateless (R25). -/
  | wideMult
  /-- `fash64`, bank `F64` (R21). -/
  | fash64
  /-- `fash256`, bank `F256` (R22). -/
  | fash256
  /-- `rash64`, bank `R64` (R23). -/
  | rash64
  /-- `srash64`, bank `S64` (R24). -/
  | srash64
deriving DecidableEq, Repr

/-- R58: the 14 operations, one per row of spec/opcode_table.json, without their operands. -/
inductive Op where
  | mul
  | f64Begin
  | f64Word
  | f64Block
  | f64End
  | f256Begin
  | f256Word
  | f256Block
  | f256End
  | r64Seed
  | r64Draw
  | s64Seed
  | s64Draw
  | s64Dump
deriving DecidableEq, Repr

/-- R58: an operation with its operands. Operands are whole words used as they stand (R60). -/
inductive Instr where
  /-- `MUL a, b` (R85). -/
  | mul (a b : Word)
  /-- `F64.BEGIN` (R91). -/
  | f64Begin
  /-- `F64.WORD w` (R92). -/
  | f64Word (w : Word)
  /-- `F64.BLOCK [w0, ...]` (R94): any number of words, none included. -/
  | f64Block (ws : List Word)
  /-- `F64.END` (R93). -/
  | f64End
  /-- `F256.BEGIN` (R101). -/
  | f256Begin
  /-- `F256.WORD w` (R102). -/
  | f256Word (w : Word)
  /-- `F256.BLOCK [w0, ...]` (R105): any number of words, none included. -/
  | f256Block (ws : List Word)
  /-- `F256.END` (R104). -/
  | f256End
  /-- `R64.SEED value` (R111). -/
  | r64Seed (value : Word)
  /-- `R64.DRAW` (R113). -/
  | r64Draw
  /-- `S64.SEED [s0, ..., s15]` (R121): exactly 16 words when well formed (R122). -/
  | s64Seed (seeds : List Word)
  /-- `S64.DRAW` (R123). -/
  | s64Draw
  /-- `S64.DUMP` (R126). -/
  | s64Dump
deriving DecidableEq, Repr

/-- R56: a command frame, the pair of an 8-bit header and the operand words `W[0], W[1], ...`. The operand count is the
length of the list: the framing of the transfer gives it, no field does. -/
structure Frame where
  hdr : Header
  operands : List Word
deriving DecidableEq, Repr

/-- R62: the status codes. Code 3 is reserved and never returned, so it has no constructor
(spec/93_implementation_defined.md U5). -/
inductive Status where
  /-- 0: the command was performed as its rule says. -/
  | ok
  /-- 1: the header names an operation but the operand count is wrong for it. -/
  | invalidArgument
  /-- 2: the header names no operation. -/
  | illegalCommand
deriving DecidableEq, Repr

/-- R61: a response frame, a status and the result words `Q[0], Q[1], ...`. -/
structure Response where
  status : Status
  words : List Word
deriving DecidableEq, Repr

/-- The operation an instruction is. -/
def Instr.op : Instr → Op
  | .mul _ _ => .mul
  | .f64Begin => .f64Begin
  | .f64Word _ => .f64Word
  | .f64Block _ => .f64Block
  | .f64End => .f64End
  | .f256Begin => .f256Begin
  | .f256Word _ => .f256Word
  | .f256Block _ => .f256Block
  | .f256End => .f256End
  | .r64Seed _ => .r64Seed
  | .r64Draw => .r64Draw
  | .s64Seed _ => .s64Seed
  | .s64Draw => .s64Draw
  | .s64Dump => .s64Dump

/-- R41, R58: the operand words of an instruction, `W[0]` first. -/
def Instr.operands : Instr → List Word
  | .mul a b => [a, b]
  | .f64Begin => []
  | .f64Word w => [w]
  | .f64Block ws => ws
  | .f64End => []
  | .f256Begin => []
  | .f256Word w => [w]
  | .f256Block ws => ws
  | .f256End => []
  | .r64Seed value => [value]
  | .r64Draw => []
  | .s64Seed seeds => seeds
  | .s64Draw => []
  | .s64Dump => []

end Sys2Proof
end

