-- ==== Sys2Proof/WellFormed.lean ====
section
/-!
DEFINITION. Which instructions are well formed. Most operand counts are fixed by the constructors themselves; what is
left is the seed's 16 words (spec/44_srash64.md R122) and the bound an implementation may put on a block
(spec/00_scope.md R9, spec/60_exceptions.md R143).
-/
namespace Sys2Proof

/-- R9, R143: whether a block of `n` words is within a bound; `none` is no bound. -/
def blockFits : Option Nat → Nat → Bool
  | none, _ => true
  | some bound, n => decide (n ≤ bound)

/-- Well-formedness on a block whose `MAX_BLOCK_LEN` is `bound`; R6, `S64_SEEDLEN` = 16. -/
def Instr.wellFormedWith (bound : Option Nat) : Instr → Bool
  | .mul _ _ => true
  | .f64Begin => true
  | .f64Word _ => true
  | .f64Block ws => blockFits bound ws.length
  | .f64End => true
  | .f256Begin => true
  | .f256Word _ => true
  | .f256Block ws => blockFits bound ws.length
  | .f256End => true
  | .r64Seed _ => true
  | .r64Draw => true
  | .s64Seed seeds => seeds.length == 16
  | .s64Draw => true
  | .s64Dump => true

/-- Well-formedness on the modelled block. -/
def Instr.wellFormed (i : Instr) : Bool := i.wellFormedWith Config.maxBlockLen

end Sys2Proof
end

