-- ==== Sys2Proof/Decode.lean ====
section
/-!
DEFINITION. The opcode map (spec/30_encoding.md R56 to R58), the decoder with its three verdicts (R59), the encoder, and
the written form of commands, frames and responses (R65). The decode table stands here and nowhere else
(spec/93_implementation_defined.md U4).
-/
namespace Sys2Proof

/-! ## The opcode map -/

/-- R56: the `UNIT` codes 0 to 4. -/
def Block.code : Block → BitVec 4
  | .wideMult => 0
  | .fash64 => 1
  | .fash256 => 2
  | .rash64 => 3
  | .srash64 => 4

/-- R58: the unit an operation belongs to. -/
def Op.block : Op → Block
  | .mul => .wideMult
  | .f64Begin | .f64Word | .f64Block | .f64End => .fash64
  | .f256Begin | .f256Word | .f256Block | .f256End => .fash256
  | .r64Seed | .r64Draw => .rash64
  | .s64Seed | .s64Draw | .s64Dump => .srash64

/-- R57: `FUNC`: 0 initialise or compute, 1 the single step, 2 `BLOCK`, 3 the read-out. -/
def Op.func : Op → BitVec 4
  | .mul | .f64Begin | .f256Begin | .r64Seed | .s64Seed => 0
  | .f64Word | .f256Word | .r64Draw | .s64Draw => 1
  | .f64Block | .f256Block => 2
  | .f64End | .f256End | .s64Dump => 3

/-- R57: `HDR` = `{UNIT, FUNC}` = `UNIT` × 16 + `FUNC`. -/
def Op.header (op : Op) : Header := BitVec.ofNat 8 (op.block.code.toNat * 16 + op.func.toNat)

/-- R58, R143: the operand count an operation requires; `none` is any count (the two `BLOCK`s). -/
def Op.operandCount : Op → Option Nat
  | .mul => some 2
  | .f64Begin => some 0
  | .f64Word => some 1
  | .f64Block => none
  | .f64End => some 0
  | .f256Begin => some 0
  | .f256Word => some 1
  | .f256Block => none
  | .f256End => some 0
  | .r64Seed => some 1
  | .r64Draw => some 0
  | .s64Seed => some 16
  | .s64Draw => some 0
  | .s64Dump => some 0

/-- R58: m, the number of result words of an `OK` response. -/
def Op.resultCount : Op → Nat
  | .mul => 2
  | .f64Begin | .f64Word | .f64Block => 0
  | .f64End => 1
  | .f256Begin | .f256Word | .f256Block => 0
  | .f256End => 4
  | .r64Seed => 0
  | .r64Draw => 1
  | .s64Seed => 0
  | .s64Draw => 1
  | .s64Dump => 16

/-- R58: the operations in the order of the opcode map. -/
def Op.all : List Op :=
  [.mul, .f64Begin, .f64Word, .f64Block, .f64End, .f256Begin, .f256Word, .f256Block, .f256End,
   .r64Seed, .r64Draw, .s64Seed, .s64Draw, .s64Dump]

/-- R56: the `UNIT` field, bits [7:4]. -/
def unitField (h : Header) : BitVec 4 := h.extractLsb' 4 4

/-- R56: the `FUNC` field, bits [3:0]. -/
def funcField (h : Header) : BitVec 4 := h.extractLsb' 0 4

/-- R58, R63: the operation a header names; a reserved header names none, never a neighbour. -/
def opOfHeader (h : Header) : Option Op :=
  Op.all.find? fun op => op.block.code == unitField h && op.func == funcField h

/-! ## The decoder -/

/-- R59: the three verdicts of the decoder; the two rejections are by name. -/
inductive Verdict where
  /-- Verdict 3: the frame is this command. -/
  | ok (i : Instr)
  /-- Verdict 2: the header names an operation and the operand count is wrong for it. -/
  | invalidArgument
  /-- Verdict 1: the header names no operation. -/
  | illegalCommand
deriving DecidableEq, Repr

/-- R59, R143: whether `n` operands will do for an operation, on a block whose `MAX_BLOCK_LEN` is `bound`. -/
def Op.accepts (bound : Option Nat) (op : Op) (n : Nat) : Bool :=
  match op.operandCount with
  | some need => n == need
  | none => blockFits bound n

/-- R41, R58: the instruction of an operation and its operand words, in index order, once their count is accepted. -/
def Op.build (op : Op) (ws : List Word) : Option Instr :=
  match op with
  | .mul => match ws with
    | [a, b] => some (.mul a b)
    | _ => none
  | .f64Begin => some .f64Begin
  | .f64Word => match ws with
    | [w] => some (.f64Word w)
    | _ => none
  | .f64Block => some (.f64Block ws)
  | .f64End => some .f64End
  | .f256Begin => some .f256Begin
  | .f256Word => match ws with
    | [w] => some (.f256Word w)
    | _ => none
  | .f256Block => some (.f256Block ws)
  | .f256End => some .f256End
  | .r64Seed => match ws with
    | [w] => some (.r64Seed w)
    | _ => none
  | .r64Draw => some .r64Draw
  | .s64Seed => some (.s64Seed ws)
  | .s64Draw => some .s64Draw
  | .s64Dump => some .s64Dump

/-- R59, R145: the verdict on a frame, the header judged first, then the operand count. `bound` is `MAX_BLOCK_LEN`
(R9, spec/93_implementation_defined.md U6). -/
def decodeWith (bound : Option Nat) (f : Frame) : Verdict :=
  match opOfHeader f.hdr with
  | none => .illegalCommand
  | some op =>
    if op.accepts bound f.operands.length then
      match op.build f.operands with
      | some i => .ok i
      | none => .invalidArgument
    else .invalidArgument

/-- R59 on the modelled block. -/
def decode (f : Frame) : Verdict := decodeWith Config.maxBlockLen f

/-! ## The encoder -/

/-- R56, R58: the frame of an instruction: its header, then its operand words. -/
def encode (i : Instr) : Frame := ⟨i.op.header, i.operands⟩

/-! ## Frames numbered as the opcode table numbers bits -/

/-- How many whole operand words the bits above the header reach into. -/
def wordsIn (nbits : Nat) : Nat := (nbits - 8 + 63) / 64

/-- The frame whose bits are `w`: the header in bits 7..0, operand word j in bits 8 + 64 j upward, bits above `nbits`
zero. A fixed-count operation gets at least the operand words it requires (zeros where `nbits` ends). DESIGN CHOICE
(log entry 16): the spec gives a frame as a pair and no order of bits across it. -/
def frameOfTableWord (nbits w : Nat) : Frame :=
  let bits := w % 2 ^ nbits
  let hdr : Header := BitVec.ofNat 8 bits
  let need := ((opOfHeader hdr).bind Op.operandCount).getD 0
  ⟨hdr, (List.range (max need (wordsIn nbits))).map fun j => BitVec.ofNat 64 (bits >>> (8 + 64 * j))⟩

/-- The instruction the decoder reads from the frame whose bits are `w`. -/
def decodeTableWord (nbits w : Nat) : Option Instr :=
  match decode (frameOfTableWord nbits w) with
  | .ok i => some i
  | .invalidArgument => none
  | .illegalCommand => none

/-! ## Codes and written forms -/

/-- R62: the 2-bit code of a status. -/
def Status.code : Status → BitVec 2
  | .ok => 0
  | .invalidArgument => 1
  | .illegalCommand => 2

/-- R62: the name of a status. -/
def Status.name : Status → String
  | .ok => "OK"
  | .invalidArgument => "INVALID_ARGUMENT"
  | .illegalCommand => "ILLEGAL_COMMAND"

/-- R58: the mnemonic of an operation. -/
def Op.mnemonic : Op → String
  | .mul => "MUL"
  | .f64Begin => "F64.BEGIN"
  | .f64Word => "F64.WORD"
  | .f64Block => "F64.BLOCK"
  | .f64End => "F64.END"
  | .f256Begin => "F256.BEGIN"
  | .f256Word => "F256.WORD"
  | .f256Block => "F256.BLOCK"
  | .f256End => "F256.END"
  | .r64Seed => "R64.SEED"
  | .r64Draw => "R64.DRAW"
  | .s64Seed => "S64.SEED"
  | .s64Draw => "S64.DRAW"
  | .s64Dump => "S64.DUMP"

/-- One upper-case hexadecimal digit. -/
def hexDigit (n : Nat) : Char :=
  if n < 10 then Char.ofNat (48 + n) else Char.ofNat (55 + n)

/-- `digits` hexadecimal digits of `n`, most significant first. -/
def hexDigits : (digits n : Nat) → List Char
  | 0, _ => []
  | d + 1, n => hexDigits d (n / 16) ++ [hexDigit (n % 16)]

/-- R65: a word in the written form of a command, `0x` and 16 digits. DESIGN CHOICE (log entry 17): the rule also
allows decimal and fewer digits. -/
def Word.written (w : Word) : String := "0x" ++ String.ofList (hexDigits 16 w.toNat)

/-- R65: words separated by commas. -/
def writtenList (ws : List Word) : String := String.intercalate ", " (ws.map Word.written)

/-- R65: a command is its mnemonic and its operands separated by commas; the operand list of a `BLOCK` or of
`S64.SEED` stands in square brackets. -/
def Instr.written (i : Instr) : String :=
  match i with
  | .f64Block ws | .f256Block ws | .s64Seed ws => i.op.mnemonic ++ " [" ++ writtenList ws ++ "]"
  | .mul a b => i.op.mnemonic ++ " " ++ writtenList [a, b]
  | .f64Word w | .f256Word w | .r64Seed w => i.op.mnemonic ++ " " ++ writtenList [w]
  | .f64Begin | .f64End | .f256Begin | .f256End | .r64Draw | .s64Draw | .s64Dump => i.op.mnemonic

/-- R65: a frame's encoding is the header in two hexadecimal digits, a colon, and each operand word as 16 digits. -/
def Frame.written (f : Frame) : String :=
  String.ofList (hexDigits 2 f.hdr.toNat) ++ " :" ++
    String.join (f.operands.map fun w => " " ++ String.ofList (hexDigits 16 w.toNat))

/-- R65: a response is written after `->` as the status name and, if `OK` with result words, those in brackets. -/
def Response.written (r : Response) : String :=
  "-> " ++ r.status.name ++ if r.words.isEmpty then "" else " [" ++ writtenList r.words ++ "]"

end Sys2Proof
end

