-- ==== Sys2Proof/Machine/State.lean ====
section
/-!
DEFINITION. The state of one block instance: the four register banks (spec/10_state.md R20 to R24), the command
interface the host sees (spec/30_encoding.md R55), and the state after reset (R33).
-/
namespace Sys2Proof.Machine

/-- R21: bank `F64`, 2 words. -/
structure F64Bank where
  product : Word
  sum : Word
deriving DecidableEq, Repr

/-- R22: bank `F256`, four lanes of 2 words. -/
structure F256Bank where
  result : Lanes 4
  sum : Lanes 4
deriving DecidableEq, Repr

/-- R23: bank `R64`, 3 words. -/
structure R64Bank where
  result : Word
  sum : Word
  counter : Word
deriving DecidableEq, Repr

/-- R24: bank `S64`, eight lanes of 2 words and one shared counter. -/
structure S64Bank where
  product : Lanes 8
  sum : Lanes 8
  counter : Word
deriving DecidableEq, Repr

/-- R20: the whole architectural state, 30 words in four disjoint banks (R26). -/
structure Banks where
  f64 : F64Bank
  f256 : F256Bank
  r64 : R64Bank
  s64 : S64Bank
deriving DecidableEq, Repr

/-- What the outside world does to the block. An input lands between steps. DESIGN CHOICE (log entries 3, 7). -/
inductive Input where
  /-- R55, R56: the host presents a command frame. -/
  | command (f : Frame)
  /-- R160: a reset with no command in progress. -/
  | reset
  /-- R161: a reset that arrives while the block is performing the command `f`. -/
  | resetDuring (f : Frame)
deriving DecidableEq, Repr

/-- The state of one block instance (R27). The registers are `banks`; the three fields after it are the model's picture
of the command interface and of the resets gone by, and no register. -/
structure State where
  /-- R20: the 30 registers. -/
  banks : Banks
  /-- R44, R55: what the host has sent and the block has not yet taken, oldest first. Log entry 3. -/
  inbox : List Input
  /-- R61, R173: the responses returned so far, oldest first. No operation reads them (R29). Log entry 3. -/
  responses : List Response
  /-- How many reset inputs have been taken: which free words the next one leaves. Log entries 2, 7. -/
  resets : Nat
deriving DecidableEq, Repr

/-- What stops the machine: nothing. R140, R141: both errors of the block are responses after which it goes on, and
no rule gives it any other way to stop, so there is no fault to name. Log entry 8. -/
inductive Fault where
deriving DecidableEq, Repr

/-- Why an instruction could have no meaning. -/
inductive Refusal where
  /-- Raised by no arm: every instruction has its meaning. The constructor is the host's; refusing would be safe. -/
  | notModelled (mnemonic : String)
deriving DecidableEq, Repr

/-- R33: the registers after reset number `g`: every one a free word, in the order of INVENTORY.md. DESIGN CHOICE
(log entry 2). -/
def Banks.afterReset (g : Nat) : Banks where
  f64 := { product := Config.resetWord g 0, sum := Config.resetWord g 1 }
  f256 := {
    result := Vector.ofFn fun i => Config.resetWord g (2 + i.val)
    sum := Vector.ofFn fun i => Config.resetWord g (6 + i.val) }
  r64 := {
    result := Config.resetWord g 10
    sum := Config.resetWord g 11
    counter := Config.resetWord g 12 }
  s64 := {
    product := Vector.ofFn fun i => Config.resetWord g (13 + i.val)
    sum := Vector.ofFn fun i => Config.resetWord g (21 + i.val)
    counter := Config.resetWord g 29 }

/-- R33, R160: the block right after reset: registers unspecified, interface idle, no command in progress, no response
pending. -/
def State.reset : State where
  banks := Banks.afterReset 0
  inbox := []
  responses := []
  resets := 0

end Sys2Proof.Machine
end

