-- ==== Sys2Proof/Machine/Operands.lean ====
section
/-!
DEFINITION. How operand words and lanes are picked out: the ring index (spec/00_scope.md R13), the flat order of the
srash64 seed and dump (spec/10_state.md R24), and the halves of a word (spec/00_scope.md R10).
-/
namespace Sys2Proof.Machine

/-- R13: `prev(i)` = (i - 1) mod N: lane 0 reads lane N-1. -/
def prev {n : Nat} (i : Fin n) : Fin n :=
  ⟨(i.val + (n - 1)) % n, Nat.mod_lt _ (Nat.zero_lt_of_lt i.isLt)⟩

/-- R10: bits [31:0] of a word, held as a word. -/
def lowHalf (v : Word) : Word := (v.extractLsb' 0 32).setWidth 64

/-- R10: bits [63:32] of a word, held as a word. -/
def highHalf (v : Word) : Word := (v.extractLsb' 32 32).setWidth 64

/-- R24, R121: the even flat indices of a 16-word vector, `S64.product[i]` ← `W[2i]`. -/
def seedProducts (ws : Vector Word 16) : Lanes 8 :=
  Vector.ofFn fun i : Fin 8 => ws[2 * i.val]

/-- R24, R121: the odd flat indices of a 16-word vector, `S64.sum[i]` ← `W[2i+1]`. -/
def seedSums (ws : Vector Word 16) : Lanes 8 :=
  Vector.ofFn fun i : Fin 8 => ws[2 * i.val + 1]

/-- R24, R126: the flat order, product[0], sum[0], product[1], sum[1], ..., product[7], sum[7]. -/
def flatOrder (product sum : Lanes 8) : Vector Word 16 :=
  Vector.ofFn fun j : Fin 16 => if j.val % 2 = 0 then product[j.val / 2] else sum[j.val / 2]

end Sys2Proof.Machine
end

