-- ==== Sys2Proof/Machine/Ops.lean ====
section
/-!
DEFINITION. The operations the meanings share: writing a bank, returning a response, rejecting a command
(spec/60_exceptions.md R141), the wide product (spec/40_wide_mult.md R80), the single-lane and the ring mixing step, and
what a reset leaves (spec/70_reset_and_hazards.md R160).
-/
namespace Sys2Proof.Machine

/-! ## Banks and responses -/

/-- Write bank `F64` and no other (R26). -/
def State.setF64 (s : State) (b : F64Bank) : State := { s with banks := { s.banks with f64 := b } }

/-- Write bank `F256` and no other (R26). -/
def State.setF256 (s : State) (b : F256Bank) : State := { s with banks := { s.banks with f256 := b } }

/-- Write bank `R64` and no other (R26). -/
def State.setR64 (s : State) (b : R64Bank) : State := { s with banks := { s.banks with r64 := b } }

/-- Write bank `S64` and no other (R26). -/
def State.setS64 (s : State) (b : S64Bank) : State := { s with banks := { s.banks with s64 := b } }

/-- R44, R61: return one response, after all earlier ones. -/
def State.respond (s : State) (r : Response) : State := { s with responses := s.responses ++ [r] }

/-- R61: return `OK` with the result words `Q`. -/
def State.ok (s : State) (q : List Word) : State := s.respond ⟨.ok, q⟩

/-- R141: `reject <STATUS>`: no register changes, the response is the status with no words, and nothing is kept. This
is the block's whole "exception entry" (R146); there is no return from it (R147). -/
def State.reject (s : State) (st : Status) : State := s.respond ⟨st, []⟩

/-! ## Arithmetic -/

/-- R80: a wide product, `low` first and `high` second. -/
structure WideProduct where
  low : Word
  high : Word
deriving DecidableEq, Repr

/-- R80: `MUL(a, b)`: the two halves of the exact product of the two unsigned values. -/
def wideMul (a b : Word) : WideProduct where
  low := BitVec.ofNat 64 (a.toNat * b.toNat % 2 ^ 64)
  high := BitVec.ofNat 64 (a.toNat * b.toNat / 2 ^ 64)

/-- What one lane's step writes. -/
structure MixedLane where
  /-- The new `product` or `result`. -/
  mixed : Word
  sum : Word
deriving DecidableEq, Repr

/-- R92, R113: the single-lane step: multiply `t` by the constant `k`, add the high half into `sum`, and mix the low half
with the sum after the add (spec/91_not_in_source.md N6). -/
def mixLane (k t sum : Word) : MixedLane :=
  let p := wideMul t k
  let sum' := sum + p.high
  ⟨p.low ^^^ sum', sum'⟩

/-- What a ring step writes. -/
structure MixedRing (n : Nat) where
  /-- The new `result[i]` or `product[i]`. -/
  mixed : Lanes n
  sum : Lanes n
deriving DecidableEq, Repr

/-- R102, R103, R123, R124: the ring step, three pure maps over lanes. Phase 1 multiplies each lane's `t[i]`, taken from
values before the command. Phase 2 adds each lane's own high half into its own sum (spec/90_conflicts.md C1). Phase 3
mixes each lane's low half with the previous lane's new sum. -/
def mixRing {n : Nat} (k t sum : Lanes n) : MixedRing n :=
  let p : Vector WideProduct n := Vector.ofFn fun i : Fin n => wideMul t[i] k[i]
  let sum' : Lanes n := Vector.ofFn fun i : Fin n => sum[i] + p[i].high
  ⟨Vector.ofFn fun i : Fin n => p[i].low ^^^ sum'[prev i], sum'⟩

/-! ## Reset -/

/-- R33, R160: a reset leaves all 30 registers unspecified: the free words of the next reset number. Responses already
returned stay with the host. R161: a command in progress is abandoned and gets no response. -/
def State.afterReset (s : State) : State :=
  { s with banks := Banks.afterReset (s.resets + 1), resets := s.resets + 1 }

end Sys2Proof.Machine
end

