-- ==== Sys2Proof/Machine/Fash256.lean ====
section
/-!
DEFINITION. Unit `fash256` (spec/42_fash256.md): the bank's operations for any constants, and the four meanings.
-/
namespace Sys2Proof.Machine

/-- R101: the bank a `BEGIN` leaves. -/
def f256Initial (c : Constants) : F256Bank := ⟨c.f256InitResult, c.f256InitSum⟩

/-- R102: absorb one word: the same word goes to every lane, then the ring step. -/
def f256Absorb (c : Constants) (b : F256Bank) (w : Word) : F256Bank :=
  let m := mixRing c.f256K (Vector.ofFn fun i : Fin 4 => b.result[i] ^^^ w) b.sum
  ⟨m.mixed, m.sum⟩

/-- R105: absorb a list of words, in order. -/
def f256AbsorbAll (c : Constants) (b : F256Bank) (ws : List Word) : F256Bank := ws.foldl (f256Absorb c) b

/-- R101: `F256.BEGIN`. -/
def execF256Begin (s : State) : Host.Outcome State Fault Refusal :=
  .next ((s.setF256 (f256Initial Config.constants)).ok [])

/-- R102: `F256.WORD w`. -/
def execF256Word (w : Word) (s : State) : Host.Outcome State Fault Refusal :=
  .next ((s.setF256 (f256Absorb Config.constants s.banks.f256 w)).ok [])

/-- R105, R143: `F256.BLOCK [w0, ...]`; a block over `MAX_BLOCK_LEN`, where there is one, is rejected before any word. -/
def execF256Block (ws : List Word) (s : State) : Host.Outcome State Fault Refusal :=
  if blockFits Config.maxBlockLen ws.length then
    .next ((s.setF256 (f256AbsorbAll Config.constants s.banks.f256 ws)).ok [])
  else .next (s.reject .invalidArgument)

/-- R104: `F256.END` returns the four results in lane order and changes nothing. -/
def execF256End (s : State) : Host.Outcome State Fault Refusal :=
  .next (s.ok s.banks.f256.result.toList)

end Sys2Proof.Machine
end

