-- ==== Sys2Proof/Machine/Fash64.lean ====
section
/-!
DEFINITION. Unit `fash64` (spec/41_fash64.md): the bank's operations for any constants, and the four meanings.
-/
namespace Sys2Proof.Machine

/-- R91: the bank a `BEGIN` leaves. -/
def f64Initial (c : Constants) : F64Bank := ⟨c.f64InitProduct, c.f64InitSum⟩

/-- R92: absorb one word. -/
def f64Absorb (c : Constants) (b : F64Bank) (w : Word) : F64Bank :=
  let m := mixLane c.f64K (b.product ^^^ w) b.sum
  ⟨m.mixed, m.sum⟩

/-- R94: absorb a list of words, in order, each pass from what the pass before left. -/
def f64AbsorbAll (c : Constants) (b : F64Bank) (ws : List Word) : F64Bank := ws.foldl (f64Absorb c) b

/-- R91: `F64.BEGIN`. -/
def execF64Begin (s : State) : Host.Outcome State Fault Refusal :=
  .next ((s.setF64 (f64Initial Config.constants)).ok [])

/-- R92: `F64.WORD w`. -/
def execF64Word (w : Word) (s : State) : Host.Outcome State Fault Refusal :=
  .next ((s.setF64 (f64Absorb Config.constants s.banks.f64 w)).ok [])

/-- R94, R143: `F64.BLOCK [w0, ...]`; a block over `MAX_BLOCK_LEN`, where there is one, is rejected before any word. -/
def execF64Block (ws : List Word) (s : State) : Host.Outcome State Fault Refusal :=
  if blockFits Config.maxBlockLen ws.length then
    .next ((s.setF64 (f64AbsorbAll Config.constants s.banks.f64 ws)).ok [])
  else .next (s.reject .invalidArgument)

/-- R93: `F64.END` returns the product and changes nothing. -/
def execF64End (s : State) : Host.Outcome State Fault Refusal :=
  .next (s.ok [s.banks.f64.product])

end Sys2Proof.Machine
end

