-- ==== Sys2Proof/Machine/Rash64.lean ====
section
/-!
DEFINITION. Unit `rash64` (spec/43_rash64.md): the bank's operations for any constants, and the two meanings.
-/
namespace Sys2Proof.Machine

/-- R111: the bank a `SEED` leaves. -/
def r64Seeded (c : Constants) (value : Word) : R64Bank := ⟨value, c.r64InitSum, 0⟩

/-- R113: the bank a `DRAW` leaves. The counter before the increment is mixed in; the increment wraps
(spec/90_conflicts.md C5). -/
def r64Advance (c : Constants) (b : R64Bank) : R64Bank :=
  let m := mixLane c.r64K (b.result ^^^ b.counter) b.sum
  ⟨m.mixed, m.sum, b.counter + 1⟩

/-- R111: `R64.SEED value`. -/
def execR64Seed (value : Word) (s : State) : Host.Outcome State Fault Refusal :=
  .next ((s.setR64 (r64Seeded Config.constants value)).ok [])

/-- R113: `R64.DRAW` returns the new result. -/
def execR64Draw (s : State) : Host.Outcome State Fault Refusal :=
  let b := r64Advance Config.constants s.banks.r64
  .next ((s.setR64 b).ok [b.result])

end Sys2Proof.Machine
end

