-- ==== Sys2Proof/Machine/Srash64.lean ====
section
/-!
DEFINITION. Unit `srash64` (spec/44_srash64.md): the bank's operations for any constants, and the three meanings.
-/
namespace Sys2Proof.Machine

/-- R121: the bank a `SEED` of 16 words leaves; the counter is always set to 0 (R127). -/
def s64Seeded (ws : Vector Word 16) : S64Bank := ⟨seedProducts ws, seedSums ws, 0⟩

/-- R123, phase 0: the multiplicands: the counter goes into lane 0 alone (spec/91_not_in_source.md N7). -/
def s64Multiplicands (b : S64Bank) : Lanes 8 :=
  Vector.ofFn fun i : Fin 8 => if i.val = 0 then b.product[i] ^^^ b.counter else b.product[i]

/-- R123: the bank a `DRAW` leaves. -/
def s64Advance (c : Constants) (b : S64Bank) : S64Bank :=
  let m := mixRing c.s64K (s64Multiplicands b) b.sum
  ⟨m.mixed, m.sum, b.counter + 1⟩

/-- R123, phase 4: the output, from the eight new products: five additions and two exclusive ors, as R123 and R128 write
it. R86 speaks of six additions. DEDUCED (log entry 18): the expression is followed, not the count. -/
def s64Output (p : Lanes 8) : Word :=
  ((p[0] + p[4]) ^^^ (p[1] + p[5])) + ((p[2] + p[6]) ^^^ (p[3] + p[7]))

/-- R121, R122: `S64.SEED [s0, ..., s15]`; any other number of words is rejected before any register changes. -/
def execS64Seed (seeds : List Word) (s : State) : Host.Outcome State Fault Refusal :=
  if h : seeds.length = 16 then
    .next ((s.setS64 (s64Seeded ⟨seeds.toArray, h⟩)).ok [])
  else .next (s.reject .invalidArgument)

/-- R123: `S64.DRAW` returns the mixed output of the new products. -/
def execS64Draw (s : State) : Host.Outcome State Fault Refusal :=
  let b := s64Advance Config.constants s.banks.s64
  .next ((s.setS64 b).ok [s64Output b.product])

/-- R126: `S64.DUMP` returns the 16 product and sum words in flat order, without the counter, and changes nothing. -/
def execS64Dump (s : State) : Host.Outcome State Fault Refusal :=
  .next (s.ok (flatOrder s.banks.s64.product s.banks.s64.sum).toList)

end Sys2Proof.Machine
end

