-- ==== Sys2Proof/Machine/WideMult.lean ====
section
/-!
DEFINITION. Unit `wide_mult` (spec/40_wide_mult.md): the reference algorithm and the operation `MUL`.
-/
namespace Sys2Proof.Machine

/-- R82: `MUL_ref(a, b)`, the 32-bit decomposition, every intermediate a 64-bit word. It is a second definition of
`wideMul`, equal to it by R83; no meaning uses it (R84). -/
def mulRef (a b : Word) : WideProduct :=
  let p0 := lowHalf a * lowHalf b
  let p1 := highHalf a * lowHalf b
  let p2 := lowHalf a * highHalf b
  let p3 := highHalf a * highHalf b
  let mid := addWithCarry p1 p2
  let high := if mid.2 then p3 + 0x100000000 else p3
  let low := addWithCarry p0 (lowHalf mid.1 * 0x100000000)
  let high := if low.2 then high + 1 else high
  ⟨low.1, high + highHalf mid.1⟩

/-- R85: `MUL a, b` returns [low, high]; it reads and writes no register. -/
def execMul (a b : Word) (s : State) : Host.Outcome State Fault Refusal :=
  let p := wideMul a b
  .next (s.ok [p.low, p.high])

end Sys2Proof.Machine
end

