-- ==== Sys2Proof/Machine/Dispatch.lean ====
section
/-!
DEFINITION. One arm per operation of the opcode map (spec/30_encoding.md R58).
-/
namespace Sys2Proof.Machine

def exec (i : Instr) (s : State) : Host.Outcome State Fault Refusal :=
  match i with
  | .mul a b => Sys2Proof.Machine.execMul a b s
  | .f64Begin => Sys2Proof.Machine.execF64Begin s
  | .f64Word w => Sys2Proof.Machine.execF64Word w s
  | .f64Block ws => Sys2Proof.Machine.execF64Block ws s
  | .f64End => Sys2Proof.Machine.execF64End s
  | .f256Begin => Sys2Proof.Machine.execF256Begin s
  | .f256Word w => Sys2Proof.Machine.execF256Word w s
  | .f256Block ws => Sys2Proof.Machine.execF256Block ws s
  | .f256End => Sys2Proof.Machine.execF256End s
  | .r64Seed value => Sys2Proof.Machine.execR64Seed value s
  | .r64Draw => Sys2Proof.Machine.execR64Draw s
  | .s64Seed seeds => Sys2Proof.Machine.execS64Seed seeds s
  | .s64Draw => Sys2Proof.Machine.execS64Draw s
  | .s64Dump => Sys2Proof.Machine.execS64Dump s

end Sys2Proof.Machine
end

