-- ==== Sys2Proof/Machine/Port.lean ====
section
/-!
DEFINITION. The command port: judging a frame and performing it (spec/30_encoding.md R59), and what each input does.
-/
namespace Sys2Proof.Machine

/-- R59, R141: perform one command frame: the instruction it decodes to, or the rejection it deserves. -/
def performFrame (f : Frame) (s : State) : Host.Outcome State Fault Refusal :=
  match decode f with
  | .ok i => exec i s
  | .invalidArgument => .next (s.reject .invalidArgument)
  | .illegalCommand => .next (s.reject .illegalCommand)

/-- R44, R160, R161: what one input does. -/
def takeInput (e : Input) (s : State) : Host.Outcome State Fault Refusal :=
  match e with
  | .command f => performFrame f s
  | .reset => .next s.afterReset
  | .resetDuring _ => .next s.afterReset

/-- R44, R55, R141 (c): take the oldest input off the port and do it, whole, before the next. With nothing sent the
block stays as it is (R28, R173). Log entry 3. -/
def stepPort (s : State) : Host.Outcome State Fault Refusal :=
  match s.inbox with
  | [] => .next s
  | e :: rest => takeInput e { s with inbox := rest }

/-- The state in which `f` is the next command the block takes, all else as it was. Log entry 4. -/
def State.presentFirst (s : State) (f : Frame) : State := { s with inbox := .command f :: s.inbox }

end Sys2Proof.Machine
end

