-- ==== Sys2Proof/Machine/Step.lean ====
section
/-!
DEFINITION. One step of the block: one input taken and done (spec/20_memory.md R44, R45; spec/70_reset_and_hazards.md
R171), and how a frame is put where the block takes its next command.
-/
namespace Sys2Proof.Machine

/-- R44, R45, R171: one step. -/
def step (s : State) : Host.Outcome State Fault Refusal := stepPort s

/-- `s` with the frame whose bits are `w` at the head of the inbox, so that the very next step performs it. The host's
list of commands is loaded from outside the block (R2, R30); this stands for that. Log entry 4. -/
def State.withFetchWord (s : State) (nbits w : Nat) : State := s.presentFirst (frameOfTableWord nbits w)

end Sys2Proof.Machine
end

