-- ==== Sys2Proof/Machine/Streams.lean ====
section
/-!
DEFINITION. The digests and output sequences as functions, written from the rules that define them on plain pairs and
triples (spec/41_fash64.md R95, spec/42_fash256.md R106, spec/43_rash64.md R114, spec/44_srash64.md R128), apart from the
meanings, which are stated to agree with them.
-/
namespace Sys2Proof.Machine

/-- R95: `step64((p, s), w)`. -/
def step64 (c : Constants) (ps : Word × Word) (w : Word) : Word × Word :=
  let m := wideMul (ps.1 ^^^ w) c.f64K
  let s' := ps.2 + m.high
  (s' ^^^ m.low, s')

/-- R95: `FASH64(ws)`. -/
def fash64 (c : Constants) (ws : List Word) : Word :=
  (ws.foldl (step64 c) (c.f64InitProduct, c.f64InitSum)).1

/-- R106: `step256((r, s), w)`. -/
def step256 (c : Constants) (rs : Lanes 4 × Lanes 4) (w : Word) : Lanes 4 × Lanes 4 :=
  let high (i : Fin 4) : Word := (wideMul (rs.1[i] ^^^ w) c.f256K[i]).high
  let low (i : Fin 4) : Word := (wideMul (rs.1[i] ^^^ w) c.f256K[i]).low
  (Vector.ofFn fun i => low i ^^^ (rs.2[prev i] + high (prev i)), Vector.ofFn fun i => rs.2[i] + high i)

/-- R106: `FASH256(ws)`. -/
def fash256 (c : Constants) (ws : List Word) : Lanes 4 :=
  (ws.foldl (step256 c) (c.f256InitResult, c.f256InitSum)).1

/-- R114: the state `draw64(r, s, c)` leaves; its output is the first component. -/
def draw64 (c : Constants) : Word × Word × Word → Word × Word × Word
  | (r, s, n) =>
    let m := wideMul (r ^^^ n) c.r64K
    (m.low ^^^ (s + m.high), s + m.high, n + 1)

/-- R114: element `k` of `RASH64(v)`, counted from 0: the output of draw `k + 1`. -/
def rash64 (c : Constants) (v : Word) (k : Nat) : Word :=
  ((draw64 c)^[k + 1] (v, c.r64InitSum, 0)).1

/-- R128: the state `draw8(p, s, c)` leaves. -/
def draw8 (c : Constants) : Lanes 8 × Lanes 8 × Word → Lanes 8 × Lanes 8 × Word
  | (p, s, n) =>
    let t (i : Fin 8) : Word := if i = 0 then p[0] ^^^ n else p[i]
    let high (i : Fin 8) : Word := (wideMul (t i) c.s64K[i]).high
    let low (i : Fin 8) : Word := (wideMul (t i) c.s64K[i]).low
    (Vector.ofFn fun i => low i ^^^ (s[prev i] + high (prev i)), Vector.ofFn fun i => s[i] + high i, n + 1)

/-- R128: the state after `k` draws from the seed `ws`. -/
def srash64State (c : Constants) (ws : Vector Word 16) (k : Nat) : Lanes 8 × Lanes 8 × Word :=
  (draw8 c)^[k] (Vector.ofFn fun i : Fin 8 => ws[2 * i.val], Vector.ofFn fun i : Fin 8 => ws[2 * i.val + 1], 0)

/-- R128: `out` of `draw8`, from the new products `p'`: five additions, where R86 counts six. DEDUCED (log entry 18). -/
def draw8Output (p : Lanes 8) : Word :=
  ((p[0] + p[4]) ^^^ (p[1] + p[5])) + ((p[2] + p[6]) ^^^ (p[3] + p[7]))

/-- R128: element `k` of `SRASH64(ws)`, counted from 0. -/
def srash64 (c : Constants) (ws : Vector Word 16) (k : Nat) : Word :=
  draw8Output (srash64State c ws (k + 1)).1

end Sys2Proof.Machine
end

