-- ==== Sys2Proof/Safety.lean ====
section
/-!
DEFINITION. The terms claims about runs use: which responses are of the right shape (spec/30_encoding.md R61), when every
response so far is `OK` (spec/60_exceptions.md R148), and the inbox that holds a list of commands (R173).
-/
namespace Sys2Proof

/-- R61: a response that is not `OK` has no words; an `OK` one has as many as some operation returns. -/
def Response.WellShaped (r : Response) : Prop :=
  (r.status = .ok → r.words.length ∈ [0, 1, 2, 4, 16]) ∧ (r.status ≠ .ok → r.words = [])

/-- R61: every response returned so far is of the right shape. -/
def Machine.State.WellShaped (s : Machine.State) : Prop := ∀ r ∈ s.responses, r.WellShaped

/-- R148: every response so far is `OK`. -/
def Machine.State.AllOk (s : Machine.State) : Prop := ∀ r ∈ s.responses, r.status = .ok

/-- R56, R173: the inputs that present these instructions as command frames, in order. -/
def commandsOf (is : List Instr) : List Machine.Input := is.map fun i => .command (encode i)

/-- The words a command feeds to the fash64 accumulator (R92, R94). -/
def Instr.f64Words : Instr → List Word
  | .f64Word w => [w]
  | .f64Block ws => ws
  | _ => []

/-- The words a command feeds to the fash256 accumulator (R102, R105). -/
def Instr.f256Words : Instr → List Word
  | .f256Word w => [w]
  | .f256Block ws => ws
  | _ => []

end Sys2Proof
end

