-- ==== Sys2Proof/Certificates/Slice0/Obligations.lean ====
section
/-!
DEFINITION. The statements. In each, `K` is the block's own constants, of which nothing is known but what R8 (b) gives,
and a state is any state whatever unless a hypothesis says otherwise.
-/

open Sys2Proof Sys2Proof.Machine

/-! ## Words the statements share -/

/-- R58, written out from the spec's table: header, required operand count n (`none` is any), result count m. -/
def Sys2Proof.opcodeRows : List (Header × Option Nat × Nat) :=
  [(0x00, some 2, 2), (0x10, some 0, 0), (0x11, some 1, 0), (0x12, none, 0), (0x13, some 0, 1),
   (0x20, some 0, 0), (0x21, some 1, 0), (0x22, none, 0), (0x23, some 0, 4), (0x30, some 1, 0),
   (0x31, some 0, 1), (0x40, some 16, 0), (0x41, some 0, 1), (0x43, some 0, 16)]

/-- `s` after one more response and nothing else (R141 for a rejection). -/
def Sys2Proof.answered (s : State) (st : Status) (q : List Word) : State :=
  { s with responses := s.responses ++ [⟨st, q⟩] }

/-- A frame with header `h` is rejected with `INVALID_ARGUMENT`, nothing changed, whenever its count is not `n`. -/
def Sys2Proof.RejectsOtherCounts (h : Header) (n : Nat) (s : State) : Prop :=
  ∀ ws : List Word, ws.length ≠ n → performFrame ⟨h, ws⟩ s = .next (answered s .invalidArgument [])

/-- `k` steps of the machine. -/
abbrev Sys2Proof.runSteps (k : Nat) (s : State) : Host.Outcome State Fault Refusal :=
  Host.Core.run Sys2Proof.core k s

/-- `s` with these inputs waiting, all else as it is. -/
def Sys2Proof.waiting (s : State) (inputs : List Input) : State := { s with inbox := inputs }

/-! ## wide_mult -/

/-- R80: the two halves of the product are exact. -/
def Obligations.WideProductIsExact : Prop :=
  ∀ a b : Word,
    (wideMul a b).low.toNat = a.toNat * b.toNat % 2 ^ 64 ∧
    (wideMul a b).high.toNat = a.toNat * b.toNat / 2 ^ 64 ∧
    (wideMul a b).low.toNat + (wideMul a b).high.toNat * 2 ^ 64 = a.toNat * b.toNat

/-- R81 (a) to (h). -/
def Obligations.WideProductLaws : Prop :=
  ∀ a b : Word,
    (wideMul a b).low = a * b ∧
    (wideMul a b).high.toNat ≤ 2 ^ 64 - 2 ∧
    ((wideMul a b).high.toNat = 2 ^ 64 - 2 ↔ a.toNat = 2 ^ 64 - 1 ∧ b.toNat = 2 ^ 64 - 1) ∧
    wideMul a b = wideMul b a ∧
    wideMul a 0 = ⟨0, 0⟩ ∧ wideMul 0 a = ⟨0, 0⟩ ∧
    wideMul a 1 = ⟨a, 0⟩ ∧
    (∀ k, k ≤ 63 → wideMul a (BitVec.ofNat 64 (2 ^ k)) = ⟨a <<< k, a >>> (64 - k)⟩) ∧
    ((wideMul a b).high = 0 ↔ a.toNat * b.toNat < 2 ^ 64) ∧
    wideMul 0x100000000 0x100000000 = ⟨0, 1⟩ ∧
    wideMul 0xFFFFFFFFFFFFFFFF 0xFFFFFFFFFFFFFFFF = ⟨1, 0xFFFFFFFFFFFFFFFE⟩ ∧
    wideMul 0xFFFFFFFFFFFFFFFF 2 = ⟨0xFFFFFFFFFFFFFFFE, 1⟩

/-- R83: the 32-bit decomposition of R82 computes the pair of R80. -/
def Obligations.ReferenceMultiplierIsExact : Prop :=
  ∀ a b : Word, mulRef a b = wideMul a b

/-- R85: `MUL` returns the two halves of the exact product and touches nothing; any count but 2 is rejected. -/
def Obligations.MulRule : Prop :=
  ∀ (a b : Word) (s : State),
    exec (.mul a b) s = .next (answered s .ok
      [BitVec.ofNat 64 (a.toNat * b.toNat), BitVec.ofNat 64 (a.toNat * b.toNat / 2 ^ 64)]) ∧
    performFrame ⟨0x00, [a, b]⟩ s = exec (.mul a b) s ∧
    RejectsOtherCounts 0x00 2 s

/-! ## fash64 -/

/-- R91: `F64.BEGIN` loads its two constants, whatever the bank held, and writes no other register. -/
def Obligations.F64BeginRule : Prop :=
  ∀ s : State, let K := Config.constants
    exec .f64Begin s = .next (answered
      { s with banks := { s.banks with f64 := ⟨K.f64InitProduct, K.f64InitSum⟩ } } .ok []) ∧
    performFrame ⟨0x10, []⟩ s = exec .f64Begin s ∧
    RejectsOtherCounts 0x10 0 s

/-- R92: `F64.WORD w`: the sum takes in the high half, then the product is the new sum mixed with the low half. -/
def Obligations.F64WordRule : Prop :=
  ∀ (w : Word) (s : State), let K := Config.constants
    let p := wideMul (s.banks.f64.product ^^^ w) K.f64K
    let sum' := s.banks.f64.sum + p.high
    exec (.f64Word w) s = .next (answered
      { s with banks := { s.banks with f64 := ⟨sum' ^^^ p.low, sum'⟩ } } .ok []) ∧
    (w = s.banks.f64.product →
      sum' = s.banks.f64.sum ∧ sum' ^^^ p.low = s.banks.f64.sum) ∧
    performFrame ⟨0x11, [w]⟩ s = exec (.f64Word w) s ∧
    RejectsOtherCounts 0x11 1 s

/-- R93: `F64.END` returns the product and changes no register. -/
def Obligations.F64EndRule : Prop :=
  ∀ s : State,
    exec .f64End s = .next (answered s .ok [s.banks.f64.product]) ∧
    performFrame ⟨0x13, []⟩ s = exec .f64End s ∧
    RejectsOtherCounts 0x13 0 s

/-- R94: `F64.BLOCK` is `F64.WORD` for each word in order, of any length; only a bound on blocks rejects one. -/
def Obligations.F64BlockRule : Prop :=
  ∀ (ws : List Word) (s : State), let K := Config.constants
    let ps := ws.foldl (step64 K) (s.banks.f64.product, s.banks.f64.sum)
    exec (.f64Block ws) s = .next (answered
      { s with banks := { s.banks with f64 := ⟨ps.1, ps.2⟩ } } .ok []) ∧
    exec (.f64Block []) s = .next (answered s .ok []) ∧
    (∀ w, exec (.f64Block [w]) s = exec (.f64Word w) s) ∧
    (∀ xs ys, ∃ t u v : State, exec (.f64Block xs) s = .next t ∧ exec (.f64Block ys) t = .next u ∧
      exec (.f64Block (xs ++ ys)) s = .next v ∧ v.banks = u.banks) ∧
    performFrame ⟨0x12, ws⟩ s = exec (.f64Block ws) s ∧
    (∀ bound, decodeWith (some bound) ⟨0x12, ws⟩ = .invalidArgument ↔ bound < ws.length)

/-- R95, with R93, R26 and R141 for what may stand between: from any state, after `F64.BEGIN` and any commands but another
`F64.BEGIN` (words and blocks in any split, `F64.END`, commands of other units, seeds of a wrong count, which are
rejected), `F64.END` returns `FASH64` of the words absorbed, in order. -/
def Obligations.Fash64DigestOfAnyStream : Prop :=
  ∀ (s : State) (cmds : List Instr) (rest : List Input), (∀ i ∈ cmds, i ≠ .f64Begin) →
    ∃ t : State, runSteps (cmds.length + 2)
        (waiting s (commandsOf (.f64Begin :: cmds ++ [.f64End]) ++ rest)) = .next t ∧
      t.inbox = rest ∧
      t.responses.getLast? = some ⟨.ok, [fash64 Config.constants (cmds.flatMap Instr.f64Words)]⟩

/-! ## fash256 -/

/-- R101: `F256.BEGIN` loads each of the eight registers with its own constant. -/
def Obligations.F256BeginRule : Prop :=
  ∀ s : State, let K := Config.constants
    exec .f256Begin s = .next (answered
      { s with banks := { s.banks with f256 := ⟨K.f256InitResult, K.f256InitSum⟩ } } .ok []) ∧
    performFrame ⟨0x20, []⟩ s = exec .f256Begin s ∧
    RejectsOtherCounts 0x20 0 s

/-- R102: `F256.WORD w`, lane by lane: own high half into own sum, own low half with the previous lane's new sum. The
lane before lane i is `i - 1` modulo 4. -/
def Obligations.F256WordRule : Prop :=
  ∀ (w : Word) (s : State), let K := Config.constants
    let p (i : Fin 4) := wideMul (s.banks.f256.result[i] ^^^ w) K.f256K[i]
    (∃ b : F256Bank,
      exec (.f256Word w) s = .next (answered { s with banks := { s.banks with f256 := b } } .ok []) ∧
      (∀ i : Fin 4, b.sum[i] = s.banks.f256.sum[i] + (p i).high) ∧
      (∀ i : Fin 4, b.result[i] = (p i).low ^^^ b.sum[i - 1]) ∧
      (∀ i : Fin 4, w = s.banks.f256.result[i] →
        b.sum[i] = s.banks.f256.sum[i] ∧ b.result[i] = b.sum[i - 1])) ∧
    performFrame ⟨0x21, [w]⟩ s = exec (.f256Word w) s ∧
    RejectsOtherCounts 0x21 1 s

/-- R104: `F256.END` returns the four results in lane order and changes no register. -/
def Obligations.F256EndRule : Prop :=
  ∀ s : State,
    exec .f256End s = .next (answered s .ok
      [s.banks.f256.result[0], s.banks.f256.result[1], s.banks.f256.result[2], s.banks.f256.result[3]]) ∧
    performFrame ⟨0x23, []⟩ s = exec .f256End s ∧
    RejectsOtherCounts 0x23 0 s

/-- R105: `F256.BLOCK` is `F256.WORD` for each word in order, of any length; only a bound on blocks rejects one. -/
def Obligations.F256BlockRule : Prop :=
  ∀ (ws : List Word) (s : State), let K := Config.constants
    let rs := ws.foldl (step256 K) (s.banks.f256.result, s.banks.f256.sum)
    exec (.f256Block ws) s = .next (answered
      { s with banks := { s.banks with f256 := ⟨rs.1, rs.2⟩ } } .ok []) ∧
    exec (.f256Block []) s = .next (answered s .ok []) ∧
    (∀ w, exec (.f256Block [w]) s = exec (.f256Word w) s) ∧
    (∀ xs ys, ∃ t u v : State, exec (.f256Block xs) s = .next t ∧ exec (.f256Block ys) t = .next u ∧
      exec (.f256Block (xs ++ ys)) s = .next v ∧ v.banks = u.banks) ∧
    performFrame ⟨0x22, ws⟩ s = exec (.f256Block ws) s ∧
    (∀ bound, decodeWith (some bound) ⟨0x22, ws⟩ = .invalidArgument ↔ bound < ws.length)

/-- R106, with R104, R26 and R141 for what may stand between: from any state, after `F256.BEGIN` and any commands but
another `F256.BEGIN` (seeds of a wrong count, which are rejected, among them), `F256.END` returns the four words of
`FASH256` of the words absorbed, in order. -/
def Obligations.Fash256DigestOfAnyStream : Prop :=
  ∀ (s : State) (cmds : List Instr) (rest : List Input), (∀ i ∈ cmds, i ≠ .f256Begin) →
    ∃ t : State, runSteps (cmds.length + 2)
        (waiting s (commandsOf (.f256Begin :: cmds ++ [.f256End]) ++ rest)) = .next t ∧
      t.inbox = rest ∧
      t.responses.getLast? = some ⟨.ok, (fash256 Config.constants (cmds.flatMap Instr.f256Words)).toList⟩

/-- R106, its last sentence but one: after k words lane i's result depends on lanes i, i-1, ..., i-k of the old state
alone: two states that agree there give it the same value. -/
def Obligations.Fash256LaneReach : Prop :=
  ∀ (s s' : State) (ws : List Word) (i : Fin 4),
    (∀ d, d ≤ ws.length →
      s.banks.f256.result[i - Fin.ofNat 4 d] = s'.banks.f256.result[i - Fin.ofNat 4 d] ∧
      s.banks.f256.sum[i - Fin.ofNat 4 d] = s'.banks.f256.sum[i - Fin.ofNat 4 d]) →
    ∃ t t' : State, exec (.f256Block ws) s = .next t ∧ exec (.f256Block ws) s' = .next t' ∧
      t.banks.f256.result[i] = t'.banks.f256.result[i]

/-! ## rash64 -/

/-- R111: `R64.SEED value` writes all three registers; the seed is used as it stands. -/
def Obligations.R64SeedRule : Prop :=
  ∀ (value : Word) (s : State), let K := Config.constants
    exec (.r64Seed value) s = .next (answered
      { s with banks := { s.banks with r64 := ⟨value, K.r64InitSum, 0⟩ } } .ok []) ∧
    performFrame ⟨0x30, [value]⟩ s = exec (.r64Seed value) s ∧
    RejectsOtherCounts 0x30 1 s

/-- R113: `R64.DRAW`: the counter before its increment is mixed in, the counter wraps, the new result is returned. -/
def Obligations.R64DrawRule : Prop :=
  ∀ s : State, let K := Config.constants
    let b := s.banks.r64
    let p := wideMul (b.result ^^^ b.counter) K.r64K
    let sum' := b.sum + p.high
    exec .r64Draw s = .next (answered
      { s with banks := { s.banks with r64 :=
        ⟨p.low ^^^ sum', sum', BitVec.ofNat 64 ((b.counter.toNat + 1) % 2 ^ 64)⟩ } } .ok [p.low ^^^ sum']) ∧
    (b.result = b.counter → sum' = b.sum ∧ p.low ^^^ sum' = b.sum) ∧
    performFrame ⟨0x31, []⟩ s = exec .r64Draw s ∧
    RejectsOtherCounts 0x31 0 s

/-- R114: from any state, the k draws after `R64.SEED v` return the first k elements of `RASH64(v)`, and leave the
counter at k modulo 2^64. -/
def Obligations.Rash64SequenceFromSeed : Prop :=
  ∀ (s : State) (v : Word) (k : Nat) (rest : List Input),
    ∃ t : State, runSteps (k + 1)
        (waiting s (commandsOf (.r64Seed v :: List.replicate k .r64Draw) ++ rest)) = .next t ∧
      t.inbox = rest ∧
      t.responses = s.responses ++ ⟨.ok, []⟩ ::
        (List.range k).map (fun j => ⟨.ok, [rash64 Config.constants v j]⟩) ∧
      t.banks.r64.counter.toNat = k % 2 ^ 64

/-! ## srash64 -/

/-- R121, R122: `S64.SEED` of 16 words loads the 16 registers in flat order and zeroes the counter; any other number of
words changes nothing, at the port and in the meaning; after the all-zero seed the first draw returns 0; no operation
sets the counter to anything but 0 (it stays, or a draw adds 1); the dump's length is 16 whatever the state. -/
def Obligations.S64SeedRule : Prop :=
  (∀ (ws : List Word) (s : State), ws.length = 16 →
    (∃ b : S64Bank,
      exec (.s64Seed ws) s = .next (answered { s with banks := { s.banks with s64 := b } } .ok []) ∧
      (∀ i : Fin 8, ws[2 * i.val]? = some b.product[i] ∧ ws[2 * i.val + 1]? = some b.sum[i]) ∧
      b.counter = 0) ∧
    performFrame ⟨0x40, ws⟩ s = exec (.s64Seed ws) s) ∧
  (∀ (ws : List Word) (s : State), ws.length ≠ 16 →
    exec (.s64Seed ws) s = .next (answered s .invalidArgument []) ∧
    performFrame ⟨0x40, ws⟩ s = .next (answered s .invalidArgument [])) ∧
  (∀ s : State, ∃ t u : State, exec (.s64Seed (List.replicate 16 0)) s = .next t ∧ exec .s64Draw t = .next u ∧
    u.banks.s64 = ⟨Vector.replicate 8 0, Vector.replicate 8 0, 1⟩ ∧
    u.responses = t.responses ++ [⟨.ok, [0]⟩]) ∧
  (∀ (i : Instr) (s : State), ∃ t : State, exec i s = .next t ∧
    (t.banks.s64.counter = 0 ∨ t.banks.s64.counter = s.banks.s64.counter ∨
      t.banks.s64.counter = s.banks.s64.counter + 1)) ∧
  (∀ s : State, ∃ (t : State) (q : List Word), exec .s64Dump s = .next t ∧
    t.responses = s.responses ++ [⟨.ok, q⟩] ∧ q.length = 16)

/-- R123: `S64.DRAW`, lane by lane, with the counter before its increment in lane 0 alone, the previous lane's new sum
(lane `i - 1` modulo 8), and the output from the eight new products. -/
def Obligations.S64DrawRule : Prop :=
  ∀ s : State, let K := Config.constants
    let b := s.banks.s64
    let p (i : Fin 8) := wideMul (if i = 0 then b.product[0] ^^^ b.counter else b.product[i]) K.s64K[i]
    (∃ b' : S64Bank,
      exec .s64Draw s = .next (answered { s with banks := { s.banks with s64 := b' } } .ok
        [((b'.product[0] + b'.product[4]) ^^^ (b'.product[1] + b'.product[5])) +
          ((b'.product[2] + b'.product[6]) ^^^ (b'.product[3] + b'.product[7]))]) ∧
      (∀ i : Fin 8, b'.sum[i] = b.sum[i] + (p i).high) ∧
      (∀ i : Fin 8, b'.product[i] = (p i).low ^^^ b'.sum[i - 1]) ∧
      b'.counter.toNat = (b.counter.toNat + 1) % 2 ^ 64) ∧
    performFrame ⟨0x41, []⟩ s = exec .s64Draw s ∧
    RejectsOtherCounts 0x41 0 s

/-- R126: `S64.DUMP` returns 16 words, index 2i the product and 2i+1 the sum of lane i, and changes no register;
straight after `S64.SEED ws` it returns `ws`. -/
def Obligations.S64DumpRule : Prop :=
  ∀ s : State,
    (∃ q : List Word, exec .s64Dump s = .next (answered s .ok q) ∧ q.length = 16 ∧
      ∀ i : Fin 8, q[2 * i.val]? = some s.banks.s64.product[i] ∧ q[2 * i.val + 1]? = some s.banks.s64.sum[i]) ∧
    (∀ ws : List Word, ws.length = 16 → ∃ t : State, exec (.s64Seed ws) s = .next t ∧
      exec .s64Dump t = .next (answered t .ok ws)) ∧
    performFrame ⟨0x43, []⟩ s = exec .s64Dump s ∧
    RejectsOtherCounts 0x43 0 s

/-- R128: from any state, after `S64.SEED ws` and k draws, the draws have returned the first k elements of `SRASH64(ws)`
and a dump returns the k-th iterate's products and sums in flat order; the counter is k modulo 2^64. -/
def Obligations.Srash64SequenceFromSeed : Prop :=
  ∀ (s : State) (ws : Vector Word 16) (k : Nat) (rest : List Input),
    ∃ t : State, runSteps (k + 2)
        (waiting s (commandsOf (.s64Seed ws.toList :: List.replicate k .s64Draw ++ [.s64Dump]) ++ rest)) = .next t ∧
      t.inbox = rest ∧
      (∃ q : List Word,
        t.responses = s.responses ++ ⟨.ok, []⟩ ::
          (List.range k).map (fun j => ⟨.ok, [srash64 Config.constants ws j]⟩) ++ [⟨.ok, q⟩] ∧
        q.length = 16 ∧
        ∀ i : Fin 8, q[2 * i.val]? = some (srash64State Config.constants ws k).1[i] ∧
          q[2 * i.val + 1]? = some (srash64State Config.constants ws k).2.1[i]) ∧
      t.banks.s64.counter.toNat = k % 2 ^ 64

/-- R127: what a dump seeded into any instance restores: the 16 words with the counter at 0, so the original's bank
exactly when its counter is 0; when it is not, the two instances' first lane-0 multiplicands differ. -/
def Obligations.SeedOfDumpRestoresAllButCounter : Prop :=
  ∀ (s other : State), ∃ (q : List Word) (u : State),
    exec .s64Dump s = .next (answered s .ok q) ∧
    exec (.s64Seed q) other = .next u ∧
    u.banks.s64 = { s.banks.s64 with counter := 0 } ∧
    (u.banks.s64 = s.banks.s64 ↔ s.banks.s64.counter = 0) ∧
    (s.banks.s64.counter ≠ 0 →
      (s64Multiplicands u.banks.s64)[0] ≠ (s64Multiplicands s.banks.s64)[0])

/-- R127 (a): a dump taken at counter 0 and seeded into any instance, the two then give the same outputs for ever. -/
def Obligations.CheckpointAtCounterZeroContinues : Prop :=
  ∀ (orig fresh : State) (k : Nat), orig.banks.s64.counter = 0 →
    ∃ (q : List Word) (t u : State) (outs : List Response),
      runSteps (k + 1) (waiting orig (commandsOf (.s64Dump :: List.replicate k .s64Draw))) = .next t ∧
      runSteps (k + 1) (waiting fresh (commandsOf (.s64Seed q :: List.replicate k .s64Draw))) = .next u ∧
      t.responses = orig.responses ++ ⟨.ok, q⟩ :: outs ∧
      u.responses = fresh.responses ++ ⟨.ok, []⟩ :: outs ∧
      outs.length = k ∧
      u.banks.s64 = t.banks.s64

/-- How far the counter reaches, derived from R123 (log entry 13 says where R125's prose is narrower): two states that
differ in the counter alone still agree, after k + 1 draws, on every product above lane k + 1 and every sum above
lane k. -/
def Obligations.CounterReachesOneLaneADraw : Prop :=
  ∀ (s : State) (n : Word) (k : Nat),
    let s' : State := { s with banks := { s.banks with s64 := { s.banks.s64 with counter := n } } }
    let draws := commandsOf (List.replicate (k + 1) .s64Draw)
    ∃ t t' : State, runSteps (k + 1) (waiting s draws) = .next t ∧ runSteps (k + 1) (waiting s' draws) = .next t' ∧
      (∀ i : Fin 8, k + 1 < i.val → t.banks.s64.product[i] = t'.banks.s64.product[i]) ∧
      (∀ i : Fin 8, k < i.val → t.banks.s64.sum[i] = t'.banks.s64.sum[i])

/-! ## Encoding and decoding -/

/-- Decode and encode agree in both directions: every well-formed instruction comes back from its frame, and a frame is
performed as an instruction only if it is that instruction's own frame, which is then well formed. -/
def Obligations.EncodeDecodeAgree : Prop :=
  (∀ i : Instr, i.wellFormed = true → decode (encode i) = .ok i) ∧
  (∀ (f : Frame) (i : Instr), decode f = .ok i → encode i = f ∧ i.wellFormed = true)

/-- R59: the three verdicts in their order, for any `MAX_BLOCK_LEN`, told by the rows of R58: a header of no row is
illegal whatever the operands; else a wrong count is invalid; else the frame is a command, its own, which is performed
and answers `OK`. The effect of the two rejections is R141's. -/
def Obligations.VerdictsInOrder : Prop :=
  ∀ (bound : Option Nat) (f : Frame),
    ((∀ row ∈ opcodeRows, row.1 ≠ f.hdr) → decodeWith bound f = .illegalCommand ∧
      ∀ s : State, performFrame f s = .next (answered s .illegalCommand [])) ∧
    (∀ row ∈ opcodeRows, row.1 = f.hdr →
      (∀ n, row.2.1 = some n → f.operands.length ≠ n → decodeWith bound f = .invalidArgument ∧
        ∀ s : State, performFrame f s = .next (answered s .invalidArgument [])) ∧
      (∀ b, row.2.1 = none → bound = some b → b < f.operands.length → decodeWith bound f = .invalidArgument) ∧
      ((row.2.1 = some f.operands.length ∨ row.2.1 = none ∧ ∀ b, bound = some b → f.operands.length ≤ b) →
        ∃ i, decodeWith bound f = .ok i ∧ encode i = f ∧ ∀ s : State, performFrame f s = exec i s ∧
          ∃ (t : State) (q : List Word), exec i s = .next t ∧ t.responses = s.responses ++ [⟨.ok, q⟩]))

/-- R63, R142: the reserved headers are those with `UNIT` ≥ 5, those with `FUNC` ≥ 4, and six more: exactly those of no
row of R58, 242 in all (176 and 60 by the two ranges); a frame with one is rejected with `ILLEGAL_COMMAND` whatever
operands it carries; no other frame is. -/
def Obligations.ReservedHeadersAreIllegal : Prop :=
  (∀ (h : Header) (ws : List Word) (s : State),
    let reserved := 5 ≤ h.toNat / 16 ∨ 4 ≤ h.toNat % 16 ∨ h ∈ [0x01#8, 0x02#8, 0x03#8, 0x32#8, 0x33#8, 0x42#8]
    (reserved ↔ h ∉ opcodeRows.map fun row => row.1) ∧
    (reserved → performFrame ⟨h, ws⟩ s = .next (answered s .illegalCommand [])) ∧
    (¬ reserved → decode ⟨h, ws⟩ ≠ .illegalCommand)) ∧
  ((List.range 256).filter fun n => decide (opOfHeader (BitVec.ofNat 8 n) = none)).length = 242 ∧
  ((List.range 256).filter fun n => decide (5 ≤ n / 16)).length = 176 ∧
  ((List.range 256).filter fun n => decide (4 ≤ n % 16 ∧ n / 16 ≤ 4)).length = 60

/-- R143: a fixed-count operation's frame with any other count is `INVALID_ARGUMENT` and changes nothing; a block of any
length is performed, as is every frame of the right count, whatever the operand values: the response is `OK`; only
on a block with a bound is a longer `BLOCK` rejected. -/
def Obligations.WrongCountIsInvalidArgument : Prop :=
  ∀ row ∈ opcodeRows, ∀ (ws : List Word) (s : State),
    (∀ n, row.2.1 = some n → ws.length ≠ n → performFrame ⟨row.1, ws⟩ s = .next (answered s .invalidArgument [])) ∧
    ((row.2.1 = none ∨ row.2.1 = some ws.length) → ∃ (t : State) (q : List Word),
      performFrame ⟨row.1, ws⟩ s = .next t ∧ t.responses = s.responses ++ [⟨.ok, q⟩]) ∧
    (∀ bound, row.2.1 = none → (decodeWith (some bound) ⟨row.1, ws⟩ = .invalidArgument ↔ bound < ws.length))

/-- R57, R58: headers written out bit by bit as `UNIT` and `FUNC`, with their operands, decode to what they stand for;
the six unassigned pairs and their neighbours are not taken for them. -/
def Obligations.WrittenFramesDecode : Prop :=
  ∀ a b : Word,
    decode ⟨0b00000000#8, [a, b]⟩ = .ok (.mul a b) ∧
    decode ⟨0b00010001#8, [a]⟩ = .ok (.f64Word a) ∧
    decode ⟨0b00010010#8, [a, b]⟩ = .ok (.f64Block [a, b]) ∧
    decode ⟨0b00100011#8, []⟩ = .ok .f256End ∧
    decode ⟨0b00110000#8, [a]⟩ = .ok (.r64Seed a) ∧
    decode ⟨0b01000001#8, []⟩ = .ok .s64Draw ∧
    decode ⟨0b01000011#8, []⟩ = .ok .s64Dump ∧
    decode ⟨0b01000010#8, [a]⟩ = .illegalCommand ∧
    decode ⟨0b00000001#8, [a, b]⟩ = .illegalCommand ∧
    decode ⟨0b00110010#8, [a, b]⟩ = .illegalCommand

/-! ## The step -/

/-- A step with a command waiting takes it off the port; if it decodes to `i`, the step is `exec i` of the state so left;
and `withFetchWord` puts the frame of its bits where that happens next. The list of waiting inputs and the numbering of
a frame's bits are the model's choices (log entries 3, 4, 16). -/
def Obligations.StepPerformsDecodedCommand : Prop :=
  (∀ (s : State) (f : Frame) (i : Instr) (rest : List Input), decode f = .ok i →
    step (waiting s (.command f :: rest)) = exec i (waiting s rest)) ∧
  (∀ (s : State) (nbits w : Nat) (i : Instr), decodeTableWord nbits w = some i →
    step (s.withFetchWord nbits w) = exec i s)

/-- From R141: a rejected command changes no register and answers its status with no words; whatever runs after it runs
as if it had not been sent: the same registers, the same inputs taken, the same further responses. What runs after it may
hold resets; that the two runs then have the same registers, and answer alike from them, is the model's choice and no
rule (R33 promises no equality): both take the free words of the same reset number (log entries 2, UNSAFE, and 7). -/
def Obligations.RejectedCommandLeavesNoTrace : Prop :=
  ∀ (s : State) (f : Frame) (rest : List Input) (st : Status),
    (decode f = .invalidArgument ∧ st = .invalidArgument ∨ decode f = .illegalCommand ∧ st = .illegalCommand) →
    step (waiting s (.command f :: rest)) = .next (answered (waiting s rest) st []) ∧
    ∀ k, ∃ (t u : State) (later : List Response),
      runSteps (k + 1) (waiting s (.command f :: rest)) = .next t ∧
      runSteps k (waiting s rest) = .next u ∧
      t.banks = u.banks ∧ t.inbox = u.inbox ∧ t.resets = u.resets ∧
      u.responses = s.responses ++ later ∧
      t.responses = s.responses ++ ⟨st, []⟩ :: later

/-- R44, R55, R61: from any state, a list of n frames is performed in n steps, whatever the frames are: exactly one
response a frame, after all earlier ones, and the inputs behind them still wait. Each response is the one its frame gets
when performed alone from the registers the frames before it left. -/
def Obligations.OneResponsePerCommandInOrder : Prop :=
  ∀ (s : State) (before : List Frame) (f : Frame) (after : List Frame) (rest : List Input),
    ∃ (mid t : State) (rs rs' : List Response) (r : Response),
      runSteps before.length (waiting s ((before ++ f :: after).map .command ++ rest)) = .next mid ∧
      mid.inbox = (f :: after).map .command ++ rest ∧
      mid.responses = s.responses ++ rs ∧ rs.length = before.length ∧
      (∃ alone : State, performFrame f { s with banks := mid.banks } = .next alone ∧
        alone.responses = s.responses ++ [r]) ∧
      runSteps (before.length + 1 + after.length) (waiting s ((before ++ f :: after).map .command ++ rest)) = .next t ∧
      t.inbox = rest ∧
      t.responses = s.responses ++ rs ++ r :: rs' ∧ rs'.length = after.length

/-- R171, R140, R141: every step from every state answers a next state; no run of any length stops. That the model has
no stop is its reading of the two errors as responses (log entry 8). -/
def Obligations.NoRunStops : Prop :=
  ∀ (k : Nat) (s : State), ∃ t : State, runSteps k s = .next t

/-- R28, R50 (c): with nothing waiting the block stays as it is for any number of steps (a step without an input is the
model's choice, log entry 3). -/
def Obligations.IdleBlockKeepsState : Prop :=
  ∀ (k : Nat) (s : State), s.inbox = [] → runSteps k s = .next s

/-! ## What a command touches, reads and answers -/

/-- R26: every command answers a next state in which only its own unit's bank can differ, and `MUL` changes none; it
appends one response and touches nothing else of the state. -/
def Obligations.CommandTouchesOnlyItsBank : Prop :=
  ∀ (i : Instr) (s : State), ∃ (t : State) (r : Response), exec i s = .next t ∧
    (i.op.block ≠ .fash64 → t.banks.f64 = s.banks.f64) ∧
    (i.op.block ≠ .fash256 → t.banks.f256 = s.banks.f256) ∧
    (i.op.block ≠ .rash64 → t.banks.r64 = s.banks.r64) ∧
    (i.op.block ≠ .srash64 → t.banks.s64 = s.banks.s64) ∧
    t.inbox = s.inbox ∧ t.resets = s.resets ∧ t.responses = s.responses ++ [r]

/-- R26: a command reads only its own unit's bank: two states that agree on it give the same response and the same new
bank, whatever else they hold. -/
def Obligations.CommandReadsOnlyItsBank : Prop :=
  ∀ (i : Instr) (s s' : State),
    (i.op.block = .fash64 → s.banks.f64 = s'.banks.f64) →
    (i.op.block = .fash256 → s.banks.f256 = s'.banks.f256) →
    (i.op.block = .rash64 → s.banks.r64 = s'.banks.r64) →
    (i.op.block = .srash64 → s.banks.s64 = s'.banks.s64) →
    ∃ (t t' : State) (r : Response), exec i s = .next t ∧ exec i s' = .next t' ∧
      t.responses = s.responses ++ [r] ∧ t'.responses = s'.responses ++ [r] ∧
      (i.op.block = .fash64 → t.banks.f64 = t'.banks.f64) ∧
      (i.op.block = .fash256 → t.banks.f256 = t'.banks.f256) ∧
      (i.op.block = .rash64 → t.banks.r64 = t'.banks.r64) ∧
      (i.op.block = .srash64 → t.banks.s64 = t'.banks.s64)

/-- R26: commands of different units may be interleaved in any order: either order leaves the same registers and gives
each command the same response. -/
def Obligations.CommandsOfDifferentUnitsCommute : Prop :=
  ∀ (i j : Instr) (s : State), i.op.block ≠ j.op.block →
    ∃ (t u t' u' : State) (p q : Response),
      exec i s = .next t ∧ exec j t = .next u ∧ exec j s = .next t' ∧ exec i t' = .next u' ∧
      u.banks = u'.banks ∧
      u.responses = s.responses ++ [p, q] ∧ u'.responses = s.responses ++ [q, p]

/-- R29, R44: what a frame does and answers is a function of the 30 registers and the frame: no status, no earlier
response, no number of resets and no later input has any effect on it. -/
def Obligations.HistoryHasNoEffect : Prop :=
  ∀ (f : Frame) (s s' : State), s.banks = s'.banks →
    ∃ (t t' : State) (r : Response), performFrame f s = .next t ∧ performFrame f s' = .next t' ∧
      t.banks = t'.banks ∧ t.responses = s.responses ++ [r] ∧ t'.responses = s'.responses ++ [r]

/-- R61: every frame gets exactly one response; if it is `OK` it has as many words as R58's row for its header says; if
not, it has none; the reserved code 3 is never returned. -/
def Obligations.ResponseHasItsShape : Prop :=
  ∀ (f : Frame) (s : State), ∃ (t : State) (r : Response),
    performFrame f s = .next t ∧ t.responses = s.responses ++ [r] ∧
    (r.status = .ok → ∃ row ∈ opcodeRows, row.1 = f.hdr ∧ r.words.length = row.2.2) ∧
    (r.status ≠ .ok → r.words = []) ∧
    r.status.code ≠ 3

/-- R61: an invariant: if every response so far is of the right shape, so is every one after a step, from any state. -/
def Obligations.StepKeepsResponsesWellShaped : Prop :=
  ∀ s t : State, s.WellShaped → step s = .next t → t.WellShaped

/-- The invariant holds right after reset, when no response is pending. -/
def Obligations.ResetResponsesWellShaped : Prop :=
  State.reset.WellShaped ∧ State.reset.AllOk

/-- R144, R34: every well-formed command, with any operand values, from any state, initialised or not, answers `OK`; an
instruction term that is not well formed stands for a frame of a wrong count (log entry 8): it answers
`INVALID_ARGUMENT` and changes nothing. -/
def Obligations.WellFormedCommandsAnswerOk : Prop :=
  ∀ (i : Instr) (s : State),
    (i.wellFormed = true → ∃ (t : State) (q : List Word), exec i s = .next t ∧
      t.responses = s.responses ++ [⟨.ok, q⟩]) ∧
    (i.wellFormed = false → exec i s = .next (answered s .invalidArgument []))

/-- R48: `MUL`, `F64.END`, `F256.END` and `S64.DUMP` change no register, so a second one answers the same; `BEGIN` and a
well-formed `SEED` leave the same registers done twice as once. -/
def Obligations.ReadOutsRepeatAndSetupsAreIdempotent : Prop :=
  ∀ (i : Instr) (s : State),
    (i.op ∈ [.mul, .f64End, .f256End, .s64Dump] → ∃ (t u : State) (r : Response),
      exec i s = .next t ∧ exec i t = .next u ∧ t.banks = s.banks ∧ u.banks = s.banks ∧
      t.responses = s.responses ++ [r] ∧ u.responses = t.responses ++ [r]) ∧
    (i.op ∈ [.f64Begin, .f256Begin, .r64Seed, .s64Seed] → ∃ t u : State,
      exec i s = .next t ∧ exec i t = .next u ∧ u.banks = t.banks)

/-- R32: the registers no operation outputs: changing them all changes no command's response, but that of a draw, whose
output is computed from its own generator's sum and counter. -/
def Obligations.HiddenRegistersAreNotOutput : Prop :=
  ∀ (i : Instr) (s : State) (a c d e : Word) (b : Lanes 4), i ≠ .r64Draw → i ≠ .s64Draw →
    let s' : State := { s with banks :=
      { f64 := { s.banks.f64 with sum := a }
        f256 := { s.banks.f256 with sum := b }
        r64 := { s.banks.r64 with sum := c, counter := d }
        s64 := { s.banks.s64 with counter := e } } }
    ∃ (t t' : State) (r : Response), exec i s = .next t ∧ exec i s' = .next t' ∧
      t.responses = s.responses ++ [r] ∧ t'.responses = s.responses ++ [r]

/-- R152, R113, R123: each counter advances by 1, modulo 2^64, on a draw of its own unit, is set to 0 by a seed of its
own unit that is accepted, and is left alone by every other command. -/
def Obligations.CountersCountDrawsAlone : Prop :=
  ∀ (i : Instr) (s : State), ∃ t : State, exec i s = .next t ∧
    t.banks.r64.counter =
      (if i.op = .r64Draw then BitVec.ofNat 64 (s.banks.r64.counter.toNat + 1)
       else if i.op = .r64Seed then 0 else s.banks.r64.counter) ∧
    t.banks.s64.counter =
      (if i.op = .s64Draw then BitVec.ofNat 64 (s.banks.s64.counter.toNat + 1)
       else if i.op = .s64Seed ∧ i.wellFormed = true then 0 else s.banks.s64.counter)

/-! ## Reset and constants -/

/-- R33, R160, R161: right after reset the interface is idle. A reset taken from the port, alone or in the middle of any
command, gives no response; what the command would have done is lost: the registers are those the same reset leaves with
no command in progress. Three clauses are the model's choice and no rule: that the two resets leave equal registers
(R33 promises no equality; log entry 2, UNSAFE), that the inputs behind the reset stay waiting
(`t.inbox = rest`; log entry 7, UNSAFE where a wrapper discards them), and that the registers then hold the free words of
`Banks.afterReset` (log entries 2, 7). -/
def Obligations.ResetAbandonsCommandAndAnswersNothing : Prop :=
  State.reset.inbox = [] ∧ State.reset.responses = [] ∧
  ∀ (s : State) (f : Frame) (rest : List Input), ∃ t : State,
    step (waiting s (.reset :: rest)) = .next t ∧
    step (waiting s (.resetDuring f :: rest)) = .next t ∧
    t.inbox = rest ∧ t.responses = s.responses ∧
    t.banks = Banks.afterReset (s.resets + 1)

/-- R162, R33: after any reset, once every unit has had its `BEGIN` or `SEED`, nothing unspecified is left: the 30
registers are a function of the constants and the seeds, whatever they held. -/
def Obligations.InitialisationLeavesNothingUnspecified : Prop :=
  ∀ (s s' : State) (v : Word) (ws : Vector Word 16),
    let setup := commandsOf [.f64Begin, .f256Begin, .r64Seed v, .s64Seed ws.toList]
    ∃ t t' : State, runSteps 4 (waiting s setup) = .next t ∧ runSteps 4 (waiting s' setup) = .next t' ∧
      t.banks = t'.banks ∧
      t.responses = s.responses ++ List.replicate 4 ⟨.ok, []⟩

/-- R8 (b): the four fash256 multipliers are pairwise distinct. -/
def Obligations.Fash256MultipliersAreDistinct : Prop :=
  ∀ i j : Fin 4, i ≠ j → Config.constants.f256K[i] ≠ Config.constants.f256K[j]
end

