-- ==== Sys2Proof/Laws/State.lean ====
section
/-!
SUPPORT. What each update of the state leaves in each field: one lemma a field and an update, so that no later proof
unfolds a record update.
-/
namespace Sys2Proof.Machine

variable (s : State)

@[simp] theorem setF64_f64 (b) : (s.setF64 b).banks.f64 = b := rfl
@[simp] theorem setF64_f256 (b) : (s.setF64 b).banks.f256 = s.banks.f256 := rfl
@[simp] theorem setF64_r64 (b) : (s.setF64 b).banks.r64 = s.banks.r64 := rfl
@[simp] theorem setF64_s64 (b) : (s.setF64 b).banks.s64 = s.banks.s64 := rfl
@[simp] theorem setF64_inbox (b) : (s.setF64 b).inbox = s.inbox := rfl
@[simp] theorem setF64_responses (b) : (s.setF64 b).responses = s.responses := rfl
@[simp] theorem setF64_resets (b) : (s.setF64 b).resets = s.resets := rfl

@[simp] theorem setF256_f64 (b) : (s.setF256 b).banks.f64 = s.banks.f64 := rfl
@[simp] theorem setF256_f256 (b) : (s.setF256 b).banks.f256 = b := rfl
@[simp] theorem setF256_r64 (b) : (s.setF256 b).banks.r64 = s.banks.r64 := rfl
@[simp] theorem setF256_s64 (b) : (s.setF256 b).banks.s64 = s.banks.s64 := rfl
@[simp] theorem setF256_inbox (b) : (s.setF256 b).inbox = s.inbox := rfl
@[simp] theorem setF256_responses (b) : (s.setF256 b).responses = s.responses := rfl
@[simp] theorem setF256_resets (b) : (s.setF256 b).resets = s.resets := rfl

@[simp] theorem setR64_f64 (b) : (s.setR64 b).banks.f64 = s.banks.f64 := rfl
@[simp] theorem setR64_f256 (b) : (s.setR64 b).banks.f256 = s.banks.f256 := rfl
@[simp] theorem setR64_r64 (b) : (s.setR64 b).banks.r64 = b := rfl
@[simp] theorem setR64_s64 (b) : (s.setR64 b).banks.s64 = s.banks.s64 := rfl
@[simp] theorem setR64_inbox (b) : (s.setR64 b).inbox = s.inbox := rfl
@[simp] theorem setR64_responses (b) : (s.setR64 b).responses = s.responses := rfl
@[simp] theorem setR64_resets (b) : (s.setR64 b).resets = s.resets := rfl

@[simp] theorem setS64_f64 (b) : (s.setS64 b).banks.f64 = s.banks.f64 := rfl
@[simp] theorem setS64_f256 (b) : (s.setS64 b).banks.f256 = s.banks.f256 := rfl
@[simp] theorem setS64_r64 (b) : (s.setS64 b).banks.r64 = s.banks.r64 := rfl
@[simp] theorem setS64_s64 (b) : (s.setS64 b).banks.s64 = b := rfl
@[simp] theorem setS64_inbox (b) : (s.setS64 b).inbox = s.inbox := rfl
@[simp] theorem setS64_responses (b) : (s.setS64 b).responses = s.responses := rfl
@[simp] theorem setS64_resets (b) : (s.setS64 b).resets = s.resets := rfl

@[simp] theorem respond_banks (r) : (s.respond r).banks = s.banks := rfl
@[simp] theorem respond_inbox (r) : (s.respond r).inbox = s.inbox := rfl
@[simp] theorem respond_responses (r) : (s.respond r).responses = s.responses ++ [r] := rfl
@[simp] theorem respond_resets (r) : (s.respond r).resets = s.resets := rfl

@[simp] theorem ok_banks (q) : (s.ok q).banks = s.banks := rfl
@[simp] theorem ok_inbox (q) : (s.ok q).inbox = s.inbox := rfl
@[simp] theorem ok_responses (q) : (s.ok q).responses = s.responses ++ [⟨.ok, q⟩] := rfl
@[simp] theorem ok_resets (q) : (s.ok q).resets = s.resets := rfl

@[simp] theorem reject_banks (st) : (s.reject st).banks = s.banks := rfl
@[simp] theorem reject_inbox (st) : (s.reject st).inbox = s.inbox := rfl
@[simp] theorem reject_responses (st) : (s.reject st).responses = s.responses ++ [⟨st, []⟩] := rfl
@[simp] theorem reject_resets (st) : (s.reject st).resets = s.resets := rfl

@[simp] theorem afterReset_banks : s.afterReset.banks = Banks.afterReset (s.resets + 1) := rfl
@[simp] theorem afterReset_inbox : s.afterReset.inbox = s.inbox := rfl
@[simp] theorem afterReset_responses : s.afterReset.responses = s.responses := rfl
@[simp] theorem afterReset_resets : s.afterReset.resets = s.resets + 1 := rfl

@[simp] theorem reset_inbox : State.reset.inbox = [] := rfl
@[simp] theorem reset_responses : State.reset.responses = [] := rfl

end Sys2Proof.Machine
end

