-- ==== Sys2Proof/Laws/Ops.lean ====
section
/-!
SUPPORT. One lemma for each shared operation and each meaning, saying what it answers, which later proofs cite in place
of unfolding it.
-/
namespace Sys2Proof.Machine

/-! ## Arithmetic -/

theorem wideMul_low_toNat (a b : Word) : (wideMul a b).low.toNat = a.toNat * b.toNat % 2 ^ 64 := by
  simp [wideMul]

theorem wideMul_high_toNat (a b : Word) : (wideMul a b).high.toNat = a.toNat * b.toNat / 2 ^ 64 := by
  have h : a.toNat * b.toNat < 2 ^ 64 * 2 ^ 64 :=
    Nat.mul_lt_mul_of_lt_of_lt a.isLt b.isLt
  simp only [wideMul, BitVec.toNat_ofNat]
  exact Nat.mod_eq_of_lt (Nat.div_lt_of_lt_mul h)

theorem lowHalf_toNat (v : Word) : (lowHalf v).toNat = v.toNat % 2 ^ 32 := by
  simp [lowHalf]
  omega

theorem highHalf_toNat (v : Word) : (highHalf v).toNat = v.toNat / 2 ^ 32 := by
  have h := v.isLt
  simp [highHalf, Nat.shiftRight_eq_div_pow]
  omega

/-- R82: the comparison tells whether the exact sum reaches 2^64. -/
theorem addWithCarry_spec (a b : Word) :
    (addWithCarry a b).1.toNat + (if (addWithCarry a b).2 then 2 ^ 64 else 0) = a.toNat + b.toNat := by
  have ha := a.isLt
  have hb := b.isLt
  simp only [addWithCarry, BitVec.lt_def, BitVec.toNat_add, decide_eq_true_eq]
  split <;> omega

/-! ## Lanes -/

@[simp] theorem mixRing_sum_get {n : Nat} (k t sum : Lanes n) (i : Nat) (h : i < n) :
    (mixRing k t sum).sum[i] = sum[i] + (wideMul t[i] k[i]).high := by
  simp [mixRing]

/-- R102, R123: each lane mixes its own low half with the previous lane's new sum. -/
theorem mixRing_mixed_get {n : Nat} (k t sum : Lanes n) (i : Fin n) :
    (mixRing k t sum).mixed[i] = (wideMul t[i] k[i]).low ^^^ (mixRing k t sum).sum[prev i] := by
  simp [mixRing]

theorem flatOrder_product (p s : Lanes 8) (i : Nat) (h : i < 8) : (flatOrder p s)[2 * i] = p[i] := by
  simp [flatOrder]

theorem flatOrder_sum (p s : Lanes 8) (i : Nat) (h : i < 8) : (flatOrder p s)[2 * i + 1] = s[i] := by
  have h2 : (2 * i + 1) / 2 = i := by omega
  simp [flatOrder, h2]

theorem seedProducts_get (ws : Vector Word 16) (i : Nat) (h : i < 8) : (seedProducts ws)[i] = ws[2 * i] := by
  simp [seedProducts]

theorem seedSums_get (ws : Vector Word 16) (i : Nat) (h : i < 8) : (seedSums ws)[i] = ws[2 * i + 1] := by
  simp [seedSums]

/-- R24: loading the flat order back gives the products. -/
@[simp] theorem seedProducts_flatOrder (p s : Lanes 8) : seedProducts (flatOrder p s) = p :=
  Vector.ext fun i h => by rw [seedProducts_get _ i h, flatOrder_product p s i h]

/-- R24: loading the flat order back gives the sums. -/
@[simp] theorem seedSums_flatOrder (p s : Lanes 8) : seedSums (flatOrder p s) = s :=
  Vector.ext fun i h => by rw [seedSums_get _ i h, flatOrder_sum p s i h]

/-! ## What each meaning answers -/

@[simp] theorem blockFits_maxBlockLen (n : Nat) : blockFits Config.maxBlockLen n = true := rfl

theorem execMul_eq (a b : Word) (s : State) :
    execMul a b s = .next (s.ok [(wideMul a b).low, (wideMul a b).high]) := rfl

theorem execF64Begin_eq (s : State) :
    execF64Begin s = .next ((s.setF64 (f64Initial Config.constants)).ok []) := rfl

theorem execF64Word_eq (w : Word) (s : State) :
    execF64Word w s = .next ((s.setF64 (f64Absorb Config.constants s.banks.f64 w)).ok []) := rfl

theorem execF64Block_eq (ws : List Word) (s : State) :
    execF64Block ws s = .next ((s.setF64 (f64AbsorbAll Config.constants s.banks.f64 ws)).ok []) := by
  simp [execF64Block]

theorem execF64End_eq (s : State) : execF64End s = .next (s.ok [s.banks.f64.product]) := rfl

theorem execF256Begin_eq (s : State) :
    execF256Begin s = .next ((s.setF256 (f256Initial Config.constants)).ok []) := rfl

theorem execF256Word_eq (w : Word) (s : State) :
    execF256Word w s = .next ((s.setF256 (f256Absorb Config.constants s.banks.f256 w)).ok []) := rfl

theorem execF256Block_eq (ws : List Word) (s : State) :
    execF256Block ws s = .next ((s.setF256 (f256AbsorbAll Config.constants s.banks.f256 ws)).ok []) := by
  simp [execF256Block]

theorem execF256End_eq (s : State) : execF256End s = .next (s.ok s.banks.f256.result.toList) := rfl

theorem execR64Seed_eq (value : Word) (s : State) :
    execR64Seed value s = .next ((s.setR64 (r64Seeded Config.constants value)).ok []) := rfl

theorem execR64Draw_eq (s : State) :
    execR64Draw s = .next ((s.setR64 (r64Advance Config.constants s.banks.r64)).ok
      [(r64Advance Config.constants s.banks.r64).result]) := rfl

theorem execS64Seed_eq (ws : Vector Word 16) (s : State) :
    execS64Seed ws.toList s = .next ((s.setS64 (s64Seeded ws)).ok []) := by
  obtain ⟨a, h⟩ := ws
  simp [execS64Seed, h]

theorem execS64Seed_reject (ws : List Word) (s : State) (h : ws.length ≠ 16) :
    execS64Seed ws s = .next (s.reject .invalidArgument) := by
  simp [execS64Seed, h]

theorem execS64Draw_eq (s : State) :
    execS64Draw s = .next ((s.setS64 (s64Advance Config.constants s.banks.s64)).ok
      [s64Output (s64Advance Config.constants s.banks.s64).product]) := rfl

theorem execS64Dump_eq (s : State) :
    execS64Dump s = .next (s.ok (flatOrder s.banks.s64.product s.banks.s64.sum).toList) := rfl

/-! ## The port -/

theorem performFrame_ok {f : Frame} {i : Instr} (s : State) (h : decode f = .ok i) : performFrame f s = exec i s := by
  simp [performFrame, h]

theorem performFrame_invalid {f : Frame} (s : State) (h : decode f = .invalidArgument) :
    performFrame f s = .next (s.reject .invalidArgument) := by
  simp [performFrame, h]

theorem performFrame_illegal {f : Frame} (s : State) (h : decode f = .illegalCommand) :
    performFrame f s = .next (s.reject .illegalCommand) := by
  simp [performFrame, h]

theorem step_idle (s : State) (h : s.inbox = []) : step s = .next s := by
  simp [step, stepPort, h]

theorem step_input (s : State) (e : Input) (rest : List Input) (h : s.inbox = e :: rest) :
    step s = takeInput e { s with inbox := rest } := by
  simp [step, stepPort, h]

/-- R59: what the decoder reads once the header names an operation, the count is accepted and the operands build. -/
theorem decode_of_build {f : Frame} {op : Op} {i : Instr} (h : opOfHeader f.hdr = some op)
    (ha : op.accepts Config.maxBlockLen f.operands.length = true) (hb : op.build f.operands = some i) :
    decode f = .ok i := by
  simp [decode, decodeWith, h, ha, hb]

/-- R143: a count an operation of fixed count does not require. -/
theorem decode_wrong_count {f : Frame} {op : Op} {n : Nat} (h : opOfHeader f.hdr = some op)
    (hn : op.operandCount = some n) (hl : f.operands.length ≠ n) : decode f = .invalidArgument := by
  simp [decode, decodeWith, h, Op.accepts, hn, hl]

/-- R58: a header that names an operation is that operation's. -/
theorem header_of_opOfHeader {h : Header} {op : Op} (e : opOfHeader h = some op) : op.header = h := by
  have all : ∀ (h : Header) (op : Op), opOfHeader h = some op → op.header = h := by decide +revert
  exact all h op e

/-! ## The ring index as subtraction -/

/-- R13: in four lanes, `prev i` is `i - 1` of `Fin 4`. -/
theorem prev_four : ∀ i : Fin 4, prev i = i - 1 := by decide

/-- R13: in eight lanes, `prev i` is `i - 1` of `Fin 8`. -/
theorem prev_eight : ∀ i : Fin 8, prev i = i - 1 := by decide

/-! ## The streams' steps are the banks' steps -/

theorem f64Absorb_eq_step64 (c : Constants) (b : F64Bank) (w : Word) :
    f64Absorb c b w = ⟨(step64 c (b.product, b.sum) w).1, (step64 c (b.product, b.sum) w).2⟩ := by
  simp [f64Absorb, step64, mixLane, BitVec.xor_comm]

theorem r64Advance_eq_draw64 (c : Constants) (b : R64Bank) :
    r64Advance c b = ⟨(draw64 c (b.result, b.sum, b.counter)).1, (draw64 c (b.result, b.sum, b.counter)).2.1,
      (draw64 c (b.result, b.sum, b.counter)).2.2⟩ := rfl

theorem f64AbsorbAll_eq_fold (c : Constants) (ws : List Word) (b : F64Bank) :
    f64AbsorbAll c b ws =
      ⟨(ws.foldl (step64 c) (b.product, b.sum)).1, (ws.foldl (step64 c) (b.product, b.sum)).2⟩ := by
  induction ws generalizing b with
  | nil => rfl
  | cons w ws ih =>
    show f64AbsorbAll c (f64Absorb c b w) ws = _
    rw [ih, f64Absorb_eq_step64]; rfl

theorem f256Absorb_eq_step256 (c : Constants) (b : F256Bank) (w : Word) :
    f256Absorb c b w = ⟨(step256 c (b.result, b.sum) w).1, (step256 c (b.result, b.sum) w).2⟩ := by
  simp only [f256Absorb, step256, F256Bank.mk.injEq]
  constructor
  · ext1 i h
    have := mixRing_mixed_get c.f256K (Vector.ofFn fun i : Fin 4 => b.result[i] ^^^ w) b.sum ⟨i, h⟩
    simp at this; simp [this]
  · ext1 i h; simp

theorem f256AbsorbAll_eq_fold (c : Constants) (ws : List Word) (b : F256Bank) :
    f256AbsorbAll c b ws =
      ⟨(ws.foldl (step256 c) (b.result, b.sum)).1, (ws.foldl (step256 c) (b.result, b.sum)).2⟩ := by
  induction ws generalizing b with
  | nil => rfl
  | cons w ws ih =>
    show f256AbsorbAll c (f256Absorb c b w) ws = _
    rw [ih, f256Absorb_eq_step256]; rfl

theorem s64Advance_eq_draw8 (c : Constants) (b : S64Bank) :
    s64Advance c b = ⟨(draw8 c (b.product, b.sum, b.counter)).1, (draw8 c (b.product, b.sum, b.counter)).2.1,
      (draw8 c (b.product, b.sum, b.counter)).2.2⟩ := by
  have e (i : Nat) (h : i < 8) : (s64Multiplicands b)[i] =
      if (⟨i, h⟩ : Fin 8) = 0 then b.product[0] ^^^ b.counter else b.product[i] := by
    simp only [s64Multiplicands, Vector.getElem_ofFn]
    by_cases hi : i = 0
    · subst hi; simp
    · rw [if_neg hi, if_neg (by simpa [Fin.ext_iff] using hi)]; rfl
  simp only [s64Advance, draw8, S64Bank.mk.injEq]
  refine ⟨?_, ?_, trivial⟩
  · ext1 i h
    have := mixRing_mixed_get c.s64K (s64Multiplicands b) b.sum ⟨i, h⟩
    simp only [Fin.getElem_fin] at this
    rw [this]; simp [e]
  · ext1 i h; simp [e]

end Sys2Proof.Machine
end

