-- ==== Sys2Proof/Laws/PerInstr.lean ====
section
/-!
SUPPORT. Laws that hold of every instruction as syntax, one lemma per constructor: an instruction's operation builds it
back from its operands, accepts their number when it is well formed, and stands in the opcode map under its header.
-/
namespace Sys2Proof

/-- R57, R58: no two operations share a header, and each stands under its own. -/
@[simp] theorem opOfHeader_header (op : Op) : opOfHeader op.header = some op := by
  cases op <;> decide

end Sys2Proof

namespace Sys2Proof.Laws.BuildsBack

/-- What the decoder needs of an instruction to give it back. -/
def Statement (i : Instr) : Prop :=
  opOfHeader (encode i).hdr = some i.op ∧ i.op.build i.operands = some i ∧
    (i.wellFormed = true → i.op.accepts Config.maxBlockLen i.operands.length = true)

theorem mul (a b : Word) : Statement (.mul a b) := ⟨opOfHeader_header _, rfl, fun _ => rfl⟩
theorem f64Begin : Statement .f64Begin := ⟨opOfHeader_header _, rfl, fun _ => rfl⟩
theorem f64Word (w : Word) : Statement (.f64Word w) := ⟨opOfHeader_header _, rfl, fun _ => rfl⟩
theorem f64Block (ws : List Word) : Statement (.f64Block ws) := ⟨opOfHeader_header _, rfl, id⟩
theorem f64End : Statement .f64End := ⟨opOfHeader_header _, rfl, fun _ => rfl⟩
theorem f256Begin : Statement .f256Begin := ⟨opOfHeader_header _, rfl, fun _ => rfl⟩
theorem f256Word (w : Word) : Statement (.f256Word w) := ⟨opOfHeader_header _, rfl, fun _ => rfl⟩
theorem f256Block (ws : List Word) : Statement (.f256Block ws) := ⟨opOfHeader_header _, rfl, id⟩
theorem f256End : Statement .f256End := ⟨opOfHeader_header _, rfl, fun _ => rfl⟩
theorem r64Seed (value : Word) : Statement (.r64Seed value) := ⟨opOfHeader_header _, rfl, fun _ => rfl⟩
theorem r64Draw : Statement .r64Draw := ⟨opOfHeader_header _, rfl, fun _ => rfl⟩
theorem s64Seed (seeds : List Word) : Statement (.s64Seed seeds) := ⟨opOfHeader_header _, rfl, id⟩
theorem s64Draw : Statement .s64Draw := ⟨opOfHeader_header _, rfl, fun _ => rfl⟩
theorem s64Dump : Statement .s64Dump := ⟨opOfHeader_header _, rfl, fun _ => rfl⟩

end Sys2Proof.Laws.BuildsBack
end

