-- ==== Sys2Proof/Laws/Runs.lean ====
section
/-!
SUPPORT. Everything a command, a frame and a step can do, said once: a command writes the banks and appends one
response, and what it writes and answers depends on the banks alone; how runs chain.
-/
namespace Sys2Proof.Machine

/-- A list of 16 words is a vector of 16 words. -/
theorem seed_vector (ws : List Word) (h : ws.length = 16) : ∃ v : Vector Word 16, v.toList = ws :=
  ⟨⟨ws.toArray, h⟩, by simp⟩

/-- Every command writes new banks and one response, both read from the old banks alone. -/
theorem exec_answers (i : Instr) (s s' : State) (h : s.banks = s'.banks) : ∃ (b : Banks) (r : Response),
    exec i s = .next ({ s with banks := b }.respond r) ∧ exec i s' = .next ({ s' with banks := b }.respond r) := by
  cases s; cases s'; simp only at h; subst h
  cases i <;> first | exact ⟨_, _, rfl, rfl⟩ | skip
  rename_i seeds
  by_cases h : seeds.length = 16
  · obtain ⟨v, rfl⟩ := seed_vector seeds h; exact ⟨_, _, execS64Seed_eq v _, execS64Seed_eq v _⟩
  · exact ⟨_, _, execS64Seed_reject _ _ h, execS64Seed_reject _ _ h⟩

/-- Every frame, performed or rejected, does the same. -/
theorem performFrame_answers (f : Frame) (s s' : State) (h : s.banks = s'.banks) : ∃ (b : Banks) (r : Response),
    performFrame f s = .next ({ s with banks := b }.respond r) ∧
    performFrame f s' = .next ({ s' with banks := b }.respond r) := by
  unfold performFrame
  split
  · exact exec_answers _ s s' h
  · exact ⟨s.banks, _, rfl, by rw [h]; rfl⟩
  · exact ⟨s.banks, _, rfl, by rw [h]; rfl⟩

/-- Every step answers a next state. -/
theorem step_answers_next (s : State) : ∃ t, step s = .next t := by
  unfold step stepPort
  split
  · exact ⟨_, rfl⟩
  · rename_i e rest _
    cases e with
    | command f =>
      obtain ⟨b, r, h, -⟩ := performFrame_answers f { s with inbox := rest } _ rfl
      exact ⟨_, h⟩
    | reset => exact ⟨_, rfl⟩
    | resetDuring f => exact ⟨_, rfl⟩

theorem run_zero (s : State) : Host.Core.run core 0 s = .next s := rfl

theorem run_succ (k : Nat) (s t : State) (h : step s = .next t) :
    Host.Core.run core (k + 1) s = Host.Core.run core k t := by
  have h' : core.step s = .next t := h
  simp only [Host.Core.run, h']

/-- A run of `a + b` steps is a run of `b` steps from where `a` steps lead. -/
theorem run_add (a b : Nat) (s t : State) (h : Host.Core.run core a s = .next t) :
    Host.Core.run core (a + b) s = Host.Core.run core b t := by
  induction a generalizing s with
  | zero => cases h; simp
  | succ a ih =>
    obtain ⟨u, hu⟩ := step_answers_next s
    rw [run_succ _ _ _ hu] at h
    rw [show a + 1 + b = (a + b) + 1 by omega, run_succ _ _ _ hu]
    exact ih _ h

end Sys2Proof.Machine
end

