-- ==== Sys2Proof/Tests/Slice0.lean ====
section
/-!
SUPPORT. Tests, each on fixed values, one small step each. Expected results come from spec/95_test_vectors.md (its
sections are cited) or are written out by hand from the rule cited; none is the model's own answer. The constants are
that file's test constants T and H, never the block's. Then one witness for each statement with hypotheses.
-/
namespace Sys2Proof.Tests
open Sys2Proof Sys2Proof.Machine

/-! ## Helpers -/

/-- spec/95_test_vectors.md section 2, set T. -/
def constantsT : Constants where
  f64InitProduct := 0x0123456789ABCDEF
  f64InitSum := 0xFEDCBA9876543211
  f64K := 0x9E3779B97F4A7C15
  f256InitResult := #v[0x1111111111111111, 0x2222222222222223, 0x3333333333333333, 0x4444444444444445]
  f256InitSum := #v[0x5555555555555555, 0x6666666666666667, 0x7777777777777777, 0x8888888888888889]
  f256K := #v[0x9E3779B97F4A7C15, 0xBF58476D1CE4E5B9, 0x94D049BB133111EB, 0xD6E8FEB86659FD93]
  r64InitSum := 0xFEDCBA9876543211
  r64K := 0x9E3779B97F4A7C15
  s64K := #v[0x9E3779B97F4A7C15, 0xBF58476D1CE4E5B9, 0x94D049BB133111EB, 0xD6E8FEB86659FD93,
    0xFF51AFD7ED558CCD, 0xC4CEB9FE1A85EC53, 0x2545F4914F6CDD1D, 0xDA942042E4DD58B5]

/-- Section 2, set H, which names five of the 25; the rest as in T. -/
def constantsH : Constants :=
  { constantsT with f64InitProduct := 5, f64InitSum := 7, f64K := 0xFFFFFFFFFFFFFFFF,
                    r64InitSum := 7, r64K := 0xFFFFFFFFFFFFFFFF }

/-- A small state: registers told apart by their low digits, a counter of 3 in each generator, nothing waiting. -/
def small : State where
  banks := {
    f64 := ⟨0x10, 0x11⟩
    f256 := ⟨#v[0x20, 0x21, 0x22, 0x23], #v[0x24, 0x25, 0x26, 0x27]⟩
    r64 := ⟨0x30, 0x31, 3⟩
    s64 := ⟨#v[1, 3, 5, 7, 9, 11, 13, 15], #v[2, 4, 6, 8, 10, 12, 14, 16], 3⟩ }
  inbox := []
  responses := []
  resets := 0

/-- `small` with both counters at 0. -/
def smallAtZero : State :=
  { small with banks := { small.banks with r64 := ⟨0x30, 0x31, 0⟩, s64 := { small.banks.s64 with counter := 0 } } }

/-- The words 1 to n. -/
def upTo (n : Nat) : List Word := (List.range n).map fun j => BitVec.ofNat 64 (j + 1)

/-- The seed [1, ..., 16]. -/
def seed16 : Vector Word 16 := #v[1, 2, 3, 4, 5, 6, 7, 8, 9, 10, 11, 12, 13, 14, 15, 16]

/-- The next state, if that is the outcome. -/
def nextOf : Host.Outcome State Fault Refusal → Option State
  | .next t => some t
  | .fault _ => none
  | .refused _ => none

/-- The responses after an instruction on a state. -/
def answers (i : Instr) (s : State) : Option (List Response) := (nextOf (exec i s)).map State.responses

/-- The banks after an instruction on a state. -/
def banksAfter (i : Instr) (s : State) : Option Banks := (nextOf (exec i s)).map State.banks

/-! ## WellFormed refuses what it should -/

/-- R122: 15, 17 and 0 seed words are not well formed, 16 are. -/
theorem test_wellFormed_seed_count :
    (Instr.s64Seed (upTo 15)).wellFormed = false ∧ (Instr.s64Seed (upTo 17)).wellFormed = false ∧
    (Instr.s64Seed []).wellFormed = false ∧ (Instr.s64Seed (upTo 16)).wellFormed = true := by decide

/-- R143: a `F64.BLOCK` longer than `MAX_BLOCK_LEN` is not well formed on a block that has one. -/
theorem test_wellFormed_f64Block_bound :
    (Instr.f64Block [1, 2, 3]).wellFormedWith (some 2) = false ∧
    (Instr.f64Block [1, 2]).wellFormedWith (some 2) = true := by decide

/-- R143: the same of `F256.BLOCK`. -/
theorem test_wellFormed_f256Block_bound :
    (Instr.f256Block [1, 2, 3]).wellFormedWith (some 2) = false ∧
    (Instr.f256Block [1, 2]).wellFormedWith (some 2) = true := by decide

/-! ## Decoding, bit by bit from R56 to R58 -/

theorem test_decode_mul :
    decode ⟨0b00000000#8, [0x3, 0x5]⟩ = .ok (.mul 0x3 0x5) ∧
    decodeTableWord 8 0b00000000 = some (.mul 0 0) := by decide

theorem test_decode_f64Begin :
    decode ⟨0b00010000#8, []⟩ = .ok (.f64Begin) ∧
    decodeTableWord 8 0b00010000 = some (.f64Begin) := by decide

theorem test_decode_f64Word :
    decode ⟨0b00010001#8, [0x7]⟩ = .ok (.f64Word 0x7) ∧
    decodeTableWord 8 0b00010001 = some (.f64Word 0) := by decide

theorem test_decode_f64Block :
    decode ⟨0b00010010#8, [0x7, 0x8, 0x9]⟩ = .ok (.f64Block [0x7, 0x8, 0x9]) ∧
    decodeTableWord 8 0b00010010 = some (.f64Block []) := by decide

theorem test_decode_f64End :
    decode ⟨0b00010011#8, []⟩ = .ok (.f64End) ∧
    decodeTableWord 8 0b00010011 = some (.f64End) := by decide

theorem test_decode_f256Begin :
    decode ⟨0b00100000#8, []⟩ = .ok (.f256Begin) ∧
    decodeTableWord 8 0b00100000 = some (.f256Begin) := by decide

theorem test_decode_f256Word :
    decode ⟨0b00100001#8, [0x7]⟩ = .ok (.f256Word 0x7) ∧
    decodeTableWord 8 0b00100001 = some (.f256Word 0) := by decide

theorem test_decode_f256Block :
    decode ⟨0b00100010#8, [0x7, 0x8, 0x9]⟩ = .ok (.f256Block [0x7, 0x8, 0x9]) ∧
    decodeTableWord 8 0b00100010 = some (.f256Block []) := by decide

theorem test_decode_f256End :
    decode ⟨0b00100011#8, []⟩ = .ok (.f256End) ∧
    decodeTableWord 8 0b00100011 = some (.f256End) := by decide

theorem test_decode_r64Seed :
    decode ⟨0b00110000#8, [0x7]⟩ = .ok (.r64Seed 0x7) ∧
    decodeTableWord 8 0b00110000 = some (.r64Seed 0) := by decide

theorem test_decode_r64Draw :
    decode ⟨0b00110001#8, []⟩ = .ok (.r64Draw) ∧
    decodeTableWord 8 0b00110001 = some (.r64Draw) := by decide

theorem test_decode_s64Seed :
    decode ⟨0b01000000#8, (upTo 16)⟩ = .ok (.s64Seed (upTo 16)) ∧
    decodeTableWord 8 0b01000000 = some (.s64Seed (List.replicate 16 0)) := by decide

theorem test_decode_s64Draw :
    decode ⟨0b01000001#8, []⟩ = .ok (.s64Draw) ∧
    decodeTableWord 8 0b01000001 = some (.s64Draw) := by decide

theorem test_decode_s64Dump :
    decode ⟨0b01000011#8, []⟩ = .ok (.s64Dump) ∧
    decodeTableWord 8 0b01000011 = some (.s64Dump) := by decide

/-- Operand words above the header, the first in bits 71..8 (log entry 16). -/
theorem test_decodeTableWord_operands :
    decodeTableWord 136 (0x00 + 0x3 * 2 ^ 8 + 0x5 * 2 ^ 72) = some (.mul 0x3 0x5) ∧
    decodeTableWord 136 (0x12 + 0x3 * 2 ^ 8 + 0x5 * 2 ^ 72) = some (.f64Block [0x3, 0x5]) ∧
    decodeTableWord 8 0x01 = none := by decide

/-- Section 8: every line that is a rejection, in its order. -/
theorem test_decode_rejections :
    ([(0x00, [1]), (0x00, [1, 2, 3]), (0x10, [1]), (0x11, []), (0x11, [1, 2]), (0x13, [1]), (0x31, [1]),
      (0x40, upTo 15), (0x40, upTo 17), (0x40, []), (0x43, [1])] : List (Header × List Word)).all
        (fun p => decode ⟨p.1, p.2⟩ == .invalidArgument) = true ∧
    ([(0x01, [1, 2]), (0x14, []), (0x32, [1, 2]), (0x33, []), (0x42, []), (0x50, []), (0xFF, upTo 16), (0x24, [])] :
      List (Header × List Word)).all (fun p => decode ⟨p.1, p.2⟩ == .illegalCommand) = true := by decide

/-- R62: the codes 0, 1, 2. -/
theorem test_status_codes :
    Status.ok.code = 0b00 ∧ Status.invalidArgument.code = 0b01 ∧ Status.illegalCommand.code = 0b10 := by decide

/-- Section 9: how P1 and P2 write two encodings. -/
theorem test_frame_written :
    (encode (.mul 0x100000000 0x100000000)).written = "00 : 0000000100000000 0000000100000000" ∧
    (encode (.f64Block [3, 4])).written = "12 : 0000000000000003 0000000000000004" ∧
    (encode .s64Dump).written = "43 :" := by decide

/-- R65: a command's and a response's written form. -/
theorem test_command_written :
    (Instr.f64Block [1, 2]).written = "F64.BLOCK [0x0000000000000001, 0x0000000000000002]" ∧
    Response.written ⟨.ok, []⟩ = "-> OK" ∧
    Response.written ⟨.illegalCommand, []⟩ = "-> ILLEGAL_COMMAND" := by decide

/-! ## wide_mult -/

/-- Section 3, all 19 rows: operands, low, high. -/
def mulRows : List (Word × Word × Word × Word) :=
  [(0x0000000000000000, 0x0000000000000000, 0x0000000000000000, 0x0000000000000000),
   (0x0000000100000000, 0x0000000100000000, 0x0000000000000000, 0x0000000000000001),
   (0xFFFFFFFFFFFFFFFF, 0xFFFFFFFFFFFFFFFF, 0x0000000000000001, 0xFFFFFFFFFFFFFFFE),
   (0xFFFFFFFFFFFFFFFF, 0x0000000000000002, 0xFFFFFFFFFFFFFFFE, 0x0000000000000001),
   (0xFFFFFFFFFFFFFFFF, 0x0000000000000001, 0xFFFFFFFFFFFFFFFF, 0x0000000000000000),
   (0x0000000000000001, 0xFFFFFFFFFFFFFFFF, 0xFFFFFFFFFFFFFFFF, 0x0000000000000000),
   (0x0000000000000000, 0xFFFFFFFFFFFFFFFF, 0x0000000000000000, 0x0000000000000000),
   (0x8000000000000000, 0x0000000000000002, 0x0000000000000000, 0x0000000000000001),
   (0x8000000000000000, 0x8000000000000000, 0x0000000000000000, 0x4000000000000000),
   (0x00000000FFFFFFFF, 0x00000000FFFFFFFF, 0xFFFFFFFE00000001, 0x0000000000000000)] ++
  [(0x0000000100000000, 0x00000000FFFFFFFF, 0xFFFFFFFF00000000, 0x0000000000000000),
   (0x00000001FFFFFFFF, 0x00000000FFFFFFFF, 0xFFFFFFFD00000001, 0x0000000000000001),
   (0xC0000000C0000000, 0xC0000000C0000000, 0x9000000000000000, 0x9000000120000000),
   (0xFFFFFFFF00000000, 0xFFFFFFFF00000000, 0x0000000000000000, 0xFFFFFFFE00000001),
   (0x00000000FFFFFFFF, 0xFFFFFFFF00000000, 0x0000000100000000, 0x00000000FFFFFFFE),
   (0x0123456789ABCDEF, 0xFEDCBA9876543210, 0x2236D88FE5618CF0, 0x0121FA00AD77D742),
   (0x9E3779B97F4A7C15, 0xBF58476D1CE4E5B9, 0xD67411C46C86742D, 0x7641F3080FF92329),
   (0x0000000000000003, 0x0000000000000005, 0x000000000000000F, 0x0000000000000000),
   (0xDEADBEEFCAFEBABE, 0x0000000000000001, 0xDEADBEEFCAFEBABE, 0x0000000000000000)]

theorem test_wideMul_rows :
    mulRows.all (fun r => wideMul r.1 r.2.1 == ⟨r.2.2.1, r.2.2.2⟩) = true := by decide

theorem test_mulRef_rows :
    mulRows.all (fun r => mulRef r.1 r.2.1 == ⟨r.2.2.1, r.2.2.2⟩) = true := by decide

/-- S3: the low word first. -/
theorem test_exec_mul :
    answers (.mul 0xFFFFFFFFFFFFFFFF 0xFFFFFFFFFFFFFFFF) small = some [⟨.ok, [1, 0xFFFFFFFFFFFFFFFE]⟩] ∧
    banksAfter (.mul 0xFFFFFFFFFFFFFFFF 0xFFFFFFFFFFFFFFFF) small = some small.banks := by decide

/-! ## fash64 -/

/-- Section 4.1, by hand with H: [1], [2, 1] (the sum wraps), [5] (the product is absorbed into itself). Section 4.2
with T; the sum before the add would give 0x908097666DF71E97 for [1]. -/
theorem test_f64Absorb :
    f64AbsorbAll constantsH (f64Initial constantsH) [1] = ⟨0xFFFFFFFFFFFFFFF6, 0xA⟩ ∧
    f64AbsorbAll constantsH (f64Initial constantsH) [2, 1] = ⟨0xA, 0x1⟩ ∧
    f64AbsorbAll constantsH (f64Initial constantsH) [5] = ⟨0x7, 0x7⟩ ∧
    f64AbsorbAll constantsT (f64Initial constantsT) [0x1] = ⟨0x91CC9372DEC597A3, 0xFF90BE8CC566BB25⟩ ∧
    f64AbsorbAll constantsT (f64Initial constantsT) [1, 2, 3, 4] = ⟨0x74C0112121EAF8E8, 0x4B3BBCC28C11BFB1⟩ := by
  decide

/-- Section 9, P2: order matters. -/
theorem test_fash64_order :
    fash64 constantsT [1, 2] = 0xA2544DD700A8215A ∧ fash64 constantsT [2, 1] = 0xA466577A36A97C14 := by decide

theorem test_exec_f64End : answers .f64End small = some [⟨.ok, [0x10]⟩] := by decide

/-- R94: the empty block changes nothing. -/
theorem test_exec_f64Block_empty :
    answers (.f64Block []) small = some [⟨.ok, []⟩] ∧ banksAfter (.f64Block []) small = some small.banks := by decide

/-- R92, last corner: the word that equals the product leaves both registers at the sum, whatever the multiplier. -/
theorem test_exec_f64Word_of_product :
    ∃ t, exec (.f64Word 0x10) small = .next t ∧ t.banks.f64.product = 0x11 ∧ t.banks.f64.sum = 0x11 := by
  refine ⟨_, rfl, ?_, ?_⟩ <;> simp [f64Absorb, mixLane, wideMul, small]

/-- R91, R92: the other banks stand. -/
theorem test_exec_f64Begin_frame :
    ∃ t, exec .f64Begin small = .next t ∧ t.banks.r64 = ⟨0x30, 0x31, 3⟩ ∧
      t.banks.f64.product = Config.constants.f64InitProduct := ⟨_, rfl, rfl, rfl⟩

/-! ## fash256 -/

/-- Section 5: one step. The naive order of lanes and both losing readings of C1 give other words. -/
theorem test_f256Absorb_one :
    f256Absorb constantsT (f256Initial constantsT) 0x1 =
      ⟨#v[0xC0314EC4D6C55082, 0x30E4DB6AA6104908, 0xFF76049A758B8ABB, 0x893C9B10D0CF20D4],
       #v[0x5FE190A5F76B5D9A, 0x7FE9A31F9D73DA5D, 0x953AB969AE8147D8, 0xC1D7BB645F8F76D2]⟩ := by decide

/-- Section 5: the golden vector, [1, 2, 3], and the sums behind it by a block (section 9, P5). -/
theorem test_fash256_golden :
    fash256 constantsT [1, 2, 3] =
      #v[0xCBC12101B688C85D, 0xD0CCF664F7FD36C8, 0x216C0B4E184F2BCA, 0x2462B6C46E87ECC0] ∧
    (f256AbsorbAll constantsT (f256Initial constantsT) [1, 2, 3]).sum =
      #v[0x62324EC199460D0A, 0xD122AED5E74EEC50, 0x8A1CFD4743652DEF, 0xC033E365E720403A] := by decide

/-- R104: lanes in order. -/
theorem test_exec_f256End : answers .f256End small = some [⟨.ok, [0x20, 0x21, 0x22, 0x23]⟩] := by decide

theorem test_exec_f256Begin_frame :
    ∃ t, exec .f256Begin small = .next t ∧ t.banks.f64 = ⟨0x10, 0x11⟩ ∧
      t.banks.f256.sum = Config.constants.f256InitSum := ⟨_, rfl, rfl, rfl⟩

/-- R102: the word that equals lane 2's result leaves lane 2's sum alone, whatever the multiplier. -/
theorem test_exec_f256Word_of_result :
    ∃ t, exec (.f256Word 0x22) small = .next t ∧ t.banks.f256.sum[2] = 0x26 := by
  refine ⟨_, rfl, ?_⟩
  simp [f256Absorb, small, wideMul]

theorem test_exec_f256Block_empty :
    answers (.f256Block []) small = some [⟨.ok, []⟩] ∧ banksAfter (.f256Block []) small = some small.banks := by decide

/-! ## rash64 -/

/-- Section 6.1, by hand with H: three draws from the seed 5, the last wrapping the sum. Section 6.2: the state after
four draws from the seed 1, and the counter's wrap. -/
theorem test_rash64 :
    rash64 constantsH 5 0 = 0xFFFFFFFFFFFFFFF0 ∧ rash64 constantsH 5 1 = 0xFFFFFFFFFFFFFFF4 ∧
    rash64 constantsH 5 2 = 0xFFFFFFFFFFFFFFFA ∧
    (r64Advance constantsT)^[4] (r64Seeded constantsT 1) = ⟨0x6FDAC706054DC169, 0x0B067FF965810456, 4⟩ ∧
    r64Advance constantsT ⟨0x1234, 0x5678, 0xFFFFFFFFFFFFFFFF⟩ =
      ⟨0xC9C3B81C179012EB, 0x9E3779B97F4AC74C, 0⟩ := by decide

theorem test_exec_r64Seed :
    ∃ t, exec (.r64Seed 7) small = .next t ∧ t.banks.r64 = ⟨7, Config.constants.r64InitSum, 0⟩ := ⟨_, rfl, rfl⟩

/-- R113, its corner: with result = counter the output is the old sum, whatever the multiplier. -/
theorem test_exec_r64Draw_corner :
    ∃ t, exec .r64Draw { small with banks := { small.banks with r64 := ⟨3, 0x31, 3⟩ } } = .next t ∧
      t.responses = [⟨.ok, [0x31]⟩] ∧ t.banks.r64.counter = 4 := by
  refine ⟨_, rfl, ?_, rfl⟩
  simp [r64Advance, mixLane, wideMul, small]

/-! ## srash64 -/

/-- S10. -/
theorem test_exec_s64Seed :
    (banksAfter (.s64Seed (upTo 16)) small).map Banks.s64 =
      some ⟨#v[1, 3, 5, 7, 9, 11, 13, 15], #v[2, 4, 6, 8, 10, 12, 14, 16], 0⟩ := by decide

/-- Section 8: 15 words reject and nothing changes. -/
theorem test_exec_s64Seed_short :
    answers (.s64Seed (upTo 15)) small = some [⟨.invalidArgument, []⟩] ∧
    banksAfter (.s64Seed (upTo 15)) small = some small.banks := by decide

/-- Section 7.1: the outputs of three draws (lanes done one after another would give 0x8E8E83610A3669F0 first), the first
draw's products and sums and their output. Section 7.2: the all-zero seed's second draw, the counter 1 in lane 0 alone. -/
theorem test_srash64 :
    srash64 constantsT seed16 0 = 0x8E8E83610A366A4C ∧ srash64 constantsT seed16 1 = 0xAF1B103C977937C7 ∧
    srash64 constantsT seed16 2 = 0xD2101627FB3B32A1 ∧
    s64Advance constantsT (s64Seeded seed16) =
      ⟨#v[0x9E3779B97F4A7C09, 0x3E08D64756AEB129, 0xE81170A75FF55991, 0xE05EF70ACC75EF0D,
          0xF9DF2E975801F338, 0x74E1FDEB23C12783, 0xE48D6B6108873A6D, 0xCEADE3EB68F83294],
       #v[0x2, 0x6, 0x8, 0xD, 0x12, 0x14, 0xF, 0x1C], 1⟩ ∧
    (s64Advance constantsT)^[2] (s64Seeded (Vector.replicate 16 0)) =
      ⟨#v[0x9E3779B97F4A7C15, 0, 0, 0, 0, 0, 0, 0], Vector.replicate 8 0, 2⟩ ∧
    s64Output #v[0x9E3779B97F4A7C09, 0x3E08D64756AEB129, 0xE81170A75FF55991, 0xE05EF70ACC75EF0D,
      0xF9DF2E975801F338, 0x74E1FDEB23C12783, 0xE48D6B6108873A6D, 0xCEADE3EB68F83294] = 0x8E8E83610A366A4C := by decide

/-- R126: flat order, the counter not among the words. -/
theorem test_exec_s64Dump : answers .s64Dump small = some [⟨.ok, upTo 16⟩] := by decide

theorem test_exec_s64Draw_counter :
    ∃ t, exec .s64Draw small = .next t ∧ t.banks.s64.counter = 4 ∧ t.banks.r64.counter = 3 := ⟨_, rfl, rfl, rfl⟩

/-! ## The step -/

/-- R44: one command is taken, the rest wait. -/
theorem test_step_takes_one :
    (nextOf (step { small with inbox := [.command ⟨0x13, []⟩, .reset] })).map
      (fun t => (t.inbox, t.responses)) = some ([.reset], [⟨.ok, [0x10]⟩]) := by decide

/-- R141: a reserved header in the port is answered and leaves the registers. -/
theorem test_step_rejects :
    (nextOf (step { small with inbox := [.command ⟨0x24, []⟩] })).map (fun t => (t.banks, t.responses)) =
      some (small.banks, [⟨.illegalCommand, []⟩]) := by decide

/-- Right after reset, the frame of `MUL 3, 5` put where the block takes its next command is performed. -/
theorem test_step_after_reset :
    (nextOf (step (State.reset.withFetchWord 136 (0x3 * 2 ^ 8 + 0x5 * 2 ^ 72)))).map State.responses =
      some [⟨.ok, [0xF, 0x0]⟩] := by decide

/-! ## Witnesses: concrete inputs that meet each statement's hypotheses, clause by clause -/

/-- WideProductLaws: the shift amount at both ends. -/
theorem witness_WideProductLaws : (0 : Nat) ≤ 63 ∧ (63 : Nat) ≤ 63 := by decide

/-- The rejection clauses of the rules: a count that is not 0, 1, 2 or 16, on each side of it. -/
theorem witness_RejectsOtherCounts :
    (upTo 1).length ≠ 0 ∧ (upTo 0).length ≠ 1 ∧ (upTo 2).length ≠ 1 ∧ (upTo 1).length ≠ 2 ∧ (upTo 3).length ≠ 2 ∧
    (upTo 15).length ≠ 16 ∧ (upTo 17).length ≠ 16 := by decide

theorem witness_F64WordRule_corner : (0x10 : Word) = small.banks.f64.product := by decide

theorem witness_F64BlockRule_bound : 2 < (upTo 3).length ∧ ¬ 3 < (upTo 3).length := by decide

theorem witness_F256BlockRule_bound : 0 < (upTo 1).length ∧ ¬ 1 < (upTo 1).length := by decide

/-- Words, blocks, an end, another unit's command and a rejected seed between the begin and the end. -/
theorem witness_Fash64DigestOfAnyStream :
    ∀ i ∈ ([.f64Word 1, .f64Block [2, 3], .f64End, .f256Begin, .s64Seed []] : List Instr), i ≠ .f64Begin := by decide

theorem witness_Fash256DigestOfAnyStream :
    ∀ i ∈ ([.f256Word 1, .f256Block [2, 3], .f256End, .f64Begin, .s64Seed []] : List Instr), i ≠ .f256Begin := by decide

theorem witness_F256WordRule_corner : (0x23 : Word) = small.banks.f256.result[(3 : Fin 4)] := by decide

/-- Two states that differ in lane 0, seen from lane 2 after one word. -/
theorem witness_Fash256LaneReach :
    let other : State := { small with banks := { small.banks with f256 :=
      ⟨#v[0x77, 0x21, 0x22, 0x23], #v[0x78, 0x25, 0x26, 0x27]⟩ } }
    small.banks.f256 ≠ other.banks.f256 ∧
    ∀ d, d ≤ (upTo 1).length →
      small.banks.f256.result[(2 : Fin 4) - Fin.ofNat 4 d] = other.banks.f256.result[(2 : Fin 4) - Fin.ofNat 4 d] ∧
      small.banks.f256.sum[(2 : Fin 4) - Fin.ofNat 4 d] = other.banks.f256.sum[(2 : Fin 4) - Fin.ofNat 4 d] := by decide

theorem witness_R64DrawRule_corner :
    (⟨3, 0x31, 3⟩ : R64Bank).result = (⟨3, 0x31, 3⟩ : R64Bank).counter := by decide

theorem witness_S64SeedRule : (upTo 16).length = 16 ∧ (upTo 15).length ≠ 16 ∧ (upTo 17).length ≠ 16 := by decide

theorem witness_S64DumpRule : (upTo 16).length = 16 ∧ (upTo 1).length ≠ 0 := by decide

/-- Both clauses: a counter of 0 and one that is not. -/
theorem witness_SeedOfDumpRestoresAllButCounter :
    smallAtZero.banks.s64.counter = 0 ∧ small.banks.s64.counter ≠ 0 := by decide

theorem witness_CheckpointAtCounterZeroContinues : smallAtZero.banks.s64.counter = 0 := by decide

/-- A lane above both reaches after one draw and after six. -/
theorem witness_CounterReachesOneLaneADraw :
    0 + 1 < (2 : Fin 8).val ∧ 0 < (1 : Fin 8).val ∧ 5 + 1 < (7 : Fin 8).val ∧ 6 < (7 : Fin 8).val := by decide

/-- Each direction, at the seed's boundary count. -/
theorem witness_EncodeDecodeAgree :
    (Instr.s64Seed (upTo 16)).wellFormed = true ∧ (Instr.f256Block []).wellFormed = true ∧
    decode ⟨0x40, upTo 16⟩ = .ok (.s64Seed (upTo 16)) := by decide

/-- A header of no row; a row with a wrong count; a block over a bound; a block within it; a right count. -/
theorem witness_VerdictsInOrder :
    (∀ row ∈ opcodeRows, row.1 ≠ 0x42) ∧
    ((0x40, some 16, 0) ∈ opcodeRows ∧ (upTo 15).length ≠ 16) ∧
    ((0x12, none, 0) ∈ opcodeRows ∧ 2 < (upTo 3).length ∧ (upTo 2).length ≤ 2) ∧
    ((0x41, some 0, 1) ∈ opcodeRows ∧ (upTo 0).length = 0) := by decide

/-- The boundaries of each range of reserved headers, and a header of a row. -/
theorem witness_ReservedHeadersAreIllegal :
    5 ≤ (0x50 : Header).toNat / 16 ∧ 5 ≤ (0xFF : Header).toNat / 16 ∧ 4 ≤ (0x04 : Header).toNat % 16 ∧
    (0x42 : Header) ∈ [0x01#8, 0x02#8, 0x03#8, 0x32#8, 0x33#8, 0x42#8] ∧
    ¬ (5 ≤ (0x43 : Header).toNat / 16 ∨ 4 ≤ (0x43 : Header).toNat % 16 ∨
      (0x43 : Header) ∈ [0x01#8, 0x02#8, 0x03#8, 0x32#8, 0x33#8, 0x42#8]) := by decide

theorem witness_WrongCountIsInvalidArgument :
    ((0x00, some 2, 2) ∈ opcodeRows ∧ (upTo 1).length ≠ 2) ∧ (0x22, none, 0) ∈ opcodeRows ∧
    ((0x43, some 0, 16) ∈ opcodeRows ∧ some 0 = some (upTo 0).length) := by decide

theorem witness_StepPerformsDecodedCommand :
    decode ⟨0x11, [7]⟩ = .ok (.f64Word 7) ∧ decodeTableWord 8 0x43 = some .s64Dump := by decide

/-- Both rejections. -/
theorem witness_RejectedCommandLeavesNoTrace :
    decode ⟨0x31, [7]⟩ = .invalidArgument ∧ decode ⟨0x24, []⟩ = .illegalCommand := by decide

theorem witness_IdleBlockKeepsState : small.inbox = [] ∧ State.reset.inbox = [] := by decide

/-- For each bank clause an instruction of another unit. -/
theorem witness_CommandTouchesOnlyItsBank :
    Instr.s64Draw.op.block ≠ .fash64 ∧ Instr.s64Draw.op.block ≠ .fash256 ∧ Instr.s64Draw.op.block ≠ .rash64 ∧
    (Instr.mul 1 2).op.block ≠ .srash64 := by decide

/-- Two states that differ outside bank F64, for an instruction of fash64. -/
theorem witness_CommandReadsOnlyItsBank :
    Instr.f64End.op.block = .fash64 ∧ small.banks.f64 = smallAtZero.banks.f64 ∧ small ≠ smallAtZero ∧
    Instr.f256End.op.block = .fash256 ∧ Instr.r64Draw.op.block = .rash64 ∧ Instr.s64Draw.op.block = .srash64 ∧
    small.banks.s64 = ({ smallAtZero with banks := small.banks } : State).banks.s64 := by decide

theorem witness_CommandsOfDifferentUnitsCommute : Instr.f64End.op.block ≠ Instr.s64Draw.op.block := by decide

/-- The same banks with different pasts. -/
theorem witness_HistoryHasNoEffect :
    small.banks = (small.reject .illegalCommand).banks ∧ small ≠ small.reject .illegalCommand := by decide

/-- Both kinds of response. -/
theorem witness_ResponseHasItsShape :
    (⟨.ok, [1]⟩ : Response).status = .ok ∧ (⟨.illegalCommand, []⟩ : Response).status ≠ .ok := by decide

/-- A state with a response behind it and a command before it, and its next state. -/
theorem witness_StepKeepsResponsesWellShaped :
    ∃ t, ({ small with inbox := [.command ⟨0x13, []⟩], responses := [⟨.ok, []⟩] } : State).WellShaped ∧
      step { small with inbox := [.command ⟨0x13, []⟩], responses := [⟨.ok, []⟩] } = .next t := by
  refine ⟨_, ?_, rfl⟩
  intro r hr
  obtain rfl : r = ⟨.ok, []⟩ := by simpa using hr
  exact ⟨by decide, by decide⟩

theorem witness_WellFormedCommandsAnswerOk :
    (Instr.s64Seed (upTo 16)).wellFormed = true ∧ (Instr.s64Seed (upTo 17)).wellFormed = false := by decide

theorem witness_ReadOutsRepeatAndSetupsAreIdempotent :
    Instr.s64Dump.op ∈ [Op.mul, .f64End, .f256End, .s64Dump] ∧
    (Instr.r64Seed 1).op ∈ [Op.f64Begin, .f256Begin, .r64Seed, .s64Seed] := by decide

theorem witness_HiddenRegistersAreNotOutput : Instr.s64Dump ≠ .r64Draw ∧ Instr.s64Dump ≠ .s64Draw := by decide

theorem witness_Fash256MultipliersAreDistinct : (0 : Fin 4) ≠ 3 := by decide

end Sys2Proof.Tests
end

section
/-!
PROOFS. What spec/00_scope.md says of the 25 constants (family 00).
-/
namespace Sys2Proof

/-- R8 (b) by lanes: the record's one field of proof, `Nodup` of the four multipliers as a list, read at lane indices. -/
theorem Constants.f256K_getElem_inj (c : Constants) {i j : Fin 4} : c.f256K[i] = c.f256K[j] ↔ i = j := by
  have hlist := c.f256K_distinct.getElem_inj_iff (i := i) (hi := by simp) (j := j) (hj := by simp)
  simpa [Fin.ext_iff] using hlist

/-- Settles O49: the block's own constants are one element of the record, and in every element the lanes differ. -/
theorem fash256MultipliersAreDistinct : Obligations.Fash256MultipliersAreDistinct := by
  unfold Obligations.Fash256MultipliersAreDistinct
  intro i j hij hK
  exact hij (Config.constants.f256K_getElem_inj.mp hK)

end Sys2Proof
end

section
/-!
PROOFS. What a command reads, writes and answers, said once: a command is a function of its own unit's bank (family 10).
-/
namespace Sys2Proof

open Machine

/-! ## One unit's bank of the four -/

/-- R20 to R25: what the registers of a unit are; `wide_mult` has none. -/
abbrev Block.Bank : Block → Type
  | .wideMult => Unit
  | .fash64 => F64Bank
  | .fash256 => F256Bank
  | .rash64 => R64Bank
  | .srash64 => S64Bank

/-- The bank of a unit. -/
def Machine.Banks.bank (b : Banks) : (u : Block) → u.Bank
  | .wideMult => ()
  | .fash64 => b.f64
  | .fash256 => b.f256
  | .rash64 => b.r64
  | .srash64 => b.s64

/-- R26: write the bank of a unit and no other. -/
def Machine.Banks.putBank (b : Banks) : (u : Block) → u.Bank → Banks
  | .wideMult, _ => b
  | .fash64, x => { b with f64 := x }
  | .fash256, x => { b with f256 := x }
  | .rash64, x => { b with r64 := x }
  | .srash64, x => { b with s64 := x }

@[simp] theorem Machine.Banks.bank_putBank_self (b : Banks) (u : Block) (x : u.Bank) :
    (b.putBank u x).bank u = x := by
  cases u <;> rfl

/-- R26: on the diagonal `h` is absurd; off it the two units' registers are different fields. -/
@[simp] theorem Machine.Banks.bank_putBank_of_ne (b : Banks) {u v : Block} (x : u.Bank) (h : u ≠ v) :
    (b.putBank u x).bank v = b.bank v := by
  cases u <;> cases v <;> trivial

/-- Two states of the registers agree on a unit's bank: told by the four fields. -/
theorem Machine.Banks.bank_eq_iff (b b' : Banks) (u : Block) : b.bank u = b'.bank u ↔
    (u = .fash64 → b.f64 = b'.f64) ∧ (u = .fash256 → b.f256 = b'.f256) ∧
    (u = .rash64 → b.r64 = b'.r64) ∧ (u = .srash64 → b.s64 = b'.s64) := by
  cases u <;> simp [Banks.bank]

/-- R20: the four banks are all the registers. -/
theorem Machine.Banks.ext_bank {b b' : Banks} (h : ∀ u, b.bank u = b'.bank u) : b = b' := by
  obtain ⟨f64, f256, r64, s64⟩ := b
  exact congr (congr (congrArg₂ Banks.mk (h .fash64) (h .fash256)) (h .rash64)) (h .srash64)

/-- R26: writes to the banks of two units, in either order. -/
theorem Machine.Banks.putBank_comm (b : Banks) {u v : Block} (x : u.Bank) (y : v.Bank) (h : u ≠ v) :
    (b.putBank u x).putBank v y = (b.putBank v y).putBank u x := by
  refine Banks.ext_bank fun w => ?_
  by_cases hu : u = w
  · subst hu; simp [h.symm]
  · by_cases hv : v = w
    · subst hv; simp [h]
    · simp [hu, hv]

/-! ## A command as a function of its own unit's bank -/

/-- The bank a command leaves its unit, from the bank it finds there. -/
def Instr.newBank : (i : Instr) → i.op.block.Bank → i.op.block.Bank
  | .mul _ _ => id
  | .f64Begin => fun _ => f64Initial Config.constants
  | .f64Word w => fun b => f64Absorb Config.constants b w
  | .f64Block ws => fun b => f64AbsorbAll Config.constants b ws
  | .f64End => id
  | .f256Begin => fun _ => f256Initial Config.constants
  | .f256Word w => fun b => f256Absorb Config.constants b w
  | .f256Block ws => fun b => f256AbsorbAll Config.constants b ws
  | .f256End => id
  | .r64Seed value => fun _ => r64Seeded Config.constants value
  | .r64Draw => r64Advance Config.constants
  | .s64Seed seeds => fun b => if h : seeds.length = 16 then s64Seeded ⟨seeds.toArray, h⟩ else b
  | .s64Draw => s64Advance Config.constants
  | .s64Dump => id

/-- R61: what a command answers, from the bank it finds in its unit. -/
def Instr.response : (i : Instr) → i.op.block.Bank → Response
  | .mul a b => fun _ => ⟨.ok, [(wideMul a b).low, (wideMul a b).high]⟩
  | .f64End => fun b : F64Bank => ⟨.ok, [b.product]⟩
  | .f256End => fun b : F256Bank => ⟨.ok, b.result.toList⟩
  | .r64Draw => fun b => ⟨.ok, [(r64Advance Config.constants b).result]⟩
  | .s64Seed seeds => fun _ => ⟨if seeds.length = 16 then .ok else .invalidArgument, []⟩
  | .s64Draw => fun b => ⟨.ok, [s64Output (s64Advance Config.constants b).product]⟩
  | .s64Dump => fun b : S64Bank => ⟨.ok, (flatOrder b.product b.sum).toList⟩
  | .f64Begin | .f64Word _ | .f64Block _ | .f256Begin | .f256Word _ | .f256Block _ | .r64Seed _ => fun _ => ⟨.ok, []⟩

/-- The registers after a command. -/
def Machine.Banks.after (b : Banks) (i : Instr) : Banks :=
  b.putBank i.op.block (i.newBank (b.bank i.op.block))

section
variable {seeds : List Word} (b : (Instr.s64Seed seeds).op.block.Bank)

theorem newBank_s64Seed (h : seeds.length = 16) :
    (Instr.s64Seed seeds).newBank b = s64Seeded ⟨seeds.toArray, h⟩ := dif_pos h

/-- R122: a seed of another length leaves the bank. -/
theorem newBank_s64Seed_reject (h : seeds.length ≠ 16) : (Instr.s64Seed seeds).newBank b = b := dif_neg h

theorem response_s64Seed :
    (Instr.s64Seed seeds).response b = ⟨if seeds.length = 16 then .ok else .invalidArgument, []⟩ := rfl

end

/-- R26: a command computes its unit's new bank and its response from its unit's bank, and does nothing else. -/
theorem exec_eq_after (i : Instr) (s : State) : exec i s =
    .next ({ s with banks := s.banks.after i }.respond (i.response (s.banks.bank i.op.block))) := by
  cases i with
  | s64Seed seeds =>
    by_cases h : seeds.length = 16
    · rw [Banks.after, newBank_s64Seed _ h, response_s64Seed, if_pos h]
      exact execS64Seed_eq ⟨seeds.toArray, h⟩ s
    · rw [Banks.after, newBank_s64Seed_reject _ h, response_s64Seed, if_neg h]
      exact execS64Seed_reject seeds s h
  | f64Block ws => exact execF64Block_eq ws s
  | f256Block ws => exact execF256Block_eq ws s
  | _ => rfl

theorem after_bank_of_ne (b : Banks) (i : Instr) {u : Block} (h : i.op.block ≠ u) :
    (b.after i).bank u = b.bank u :=
  b.bank_putBank_of_ne _ h

theorem after_bank_congr {b b' : Banks} {i : Instr} (h : b.bank i.op.block = b'.bank i.op.block) :
    (b.after i).bank i.op.block = (b'.after i).bank i.op.block := by
  simp [Banks.after, h]

/-- R26: a command that comes after one of another unit finds its bank as it was. -/
theorem after_after_of_ne (b : Banks) {i j : Instr} (h : i.op.block ≠ j.op.block) : (b.after i).after j =
    (b.putBank i.op.block (i.newBank (b.bank i.op.block))).putBank j.op.block (j.newBank (b.bank j.op.block)) := by
  rw [Banks.after, after_bank_of_ne b i h, Banks.after]

/-- R26: two commands of different units leave the same registers in either order. -/
theorem after_comm (b : Banks) {i j : Instr} (h : i.op.block ≠ j.op.block) :
    (b.after i).after j = (b.after j).after i := by
  rw [after_after_of_ne b h, after_after_of_ne b h.symm, Banks.putBank_comm _ _ _ h]

/-! ## What a command touches, reads and answers -/

/-- Settles O36: a frame's new banks and response are read from the old banks alone. -/
theorem historyHasNoEffect : Obligations.HistoryHasNoEffect := by
  unfold Obligations.HistoryHasNoEffect
  intro f s s' h
  obtain ⟨b, r, hs, hs'⟩ := performFrame_answers f s s' h
  exact ⟨_, _, r, hs, hs', rfl, rfl, rfl⟩

/-- Settles O37: the registers after a command are the old ones with its unit's bank written. -/
theorem commandTouchesOnlyItsBank : Obligations.CommandTouchesOnlyItsBank := by
  unfold Obligations.CommandTouchesOnlyItsBank
  intro i s
  exact ⟨_, _, exec_eq_after i s, after_bank_of_ne s.banks i, after_bank_of_ne s.banks i,
    after_bank_of_ne s.banks i, after_bank_of_ne s.banks i, rfl, rfl, rfl⟩

/-- Settles O38: response and new bank are functions of the unit's bank, on which the two states agree. -/
theorem commandReadsOnlyItsBank : Obligations.CommandReadsOnlyItsBank := by
  unfold Obligations.CommandReadsOnlyItsBank
  intro i s s' h64 h256 hr hs
  have hbank : s.banks.bank i.op.block = s'.banks.bank i.op.block :=
    (Banks.bank_eq_iff ..).mpr ⟨h64, h256, hr, hs⟩
  refine ⟨_, _, _, exec_eq_after i s, exec_eq_after i s', rfl, by rw [hbank]; rfl, ?_⟩
  exact (Banks.bank_eq_iff ..).mp (after_bank_congr hbank)

/-- Settles O39: each command finds its bank as it was, so it writes and answers the same before and after the other. -/
theorem commandsOfDifferentUnitsCommute : Obligations.CommandsOfDifferentUnitsCommute := by
  unfold Obligations.CommandsOfDifferentUnitsCommute
  intro i j s h
  refine ⟨_, _, _, _, i.response (s.banks.bank i.op.block), j.response (s.banks.bank j.op.block),
    exec_eq_after i s, exec_eq_after j _, exec_eq_after j s, exec_eq_after i _, after_comm s.banks h, ?_, ?_⟩
  · simp [after_bank_of_ne s.banks i h]
  · simp [after_bank_of_ne s.banks j h.symm]

/-- Settles O45: no response but a draw's has one of these registers in it. -/
theorem hiddenRegistersAreNotOutput : Obligations.HiddenRegistersAreNotOutput := by
  unfold Obligations.HiddenRegistersAreNotOutput
  intro i s a c d e b hr hs s'
  have hresponse : i.response (s'.banks.bank i.op.block) = i.response (s.banks.bank i.op.block) := by
    cases i with
    | r64Draw => exact absurd rfl hr
    | s64Draw => exact absurd rfl hs
    | _ => rfl
  exact ⟨_, _, _, exec_eq_after i s, exec_eq_after i s', rfl, by rw [hresponse]; rfl⟩

/-! ## Idle block and reset -/

/-- Settles O35, by induction on the number of steps. -/
theorem idleBlockKeepsState : Obligations.IdleBlockKeepsState := by
  unfold Obligations.IdleBlockKeepsState
  intro k s h
  induction k with
  | zero => exact run_zero s
  | succ k ih => rw [runSteps, run_succ k s s (step_idle s h)]; exact ih

/-- Settles O42: there is no response to be of a wrong shape. -/
theorem resetResponsesWellShaped : Obligations.ResetResponsesWellShaped := by
  unfold Obligations.ResetResponsesWellShaped
  simp [State.WellShaped, State.AllOk]

/-- Settles O47: the step that takes a reset is `State.afterReset`, whatever command it arrives in. -/
theorem resetAbandonsCommandAndAnswersNothing : Obligations.ResetAbandonsCommandAndAnswersNothing := by
  unfold Obligations.ResetAbandonsCommandAndAnswersNothing
  refine ⟨reset_inbox, reset_responses, fun s f rest => ⟨(waiting s rest).afterReset, ?_, ?_, ?_, ?_, ?_⟩⟩
  · exact step_input _ .reset rest rfl
  · exact step_input _ (.resetDuring f) rest rfl
  · exact afterReset_inbox _
  · exact afterReset_responses _
  · exact afterReset_banks _

end Sys2Proof
end

section
/-!
PROOFS. Commands are performed one after another, and what a repeated command does (family 20).
-/
namespace Sys2Proof

open Machine

/-! ## One command taken from the port -/

@[simp] theorem waiting_inbox (s : State) (inputs : List Input) : (waiting s inputs).inbox = inputs := rfl
@[simp] theorem waiting_responses (s : State) (inputs : List Input) : (waiting s inputs).responses = s.responses := rfl

/-- R44, R59: the step that takes a frame which decodes performs its command, with the frame off the port. -/
theorem step_of_decode_ok {s : State} {f : Frame} {i : Instr} {rest : List Input}
    (hin : s.inbox = .command f :: rest) (hf : decode f = .ok i) : step s = exec i { s with inbox := rest } :=
  (step_input s _ rest hin).trans (performFrame_ok _ hf)

theorem decode_of_decodeTableWord {nbits w : Nat} {i : Instr} (h : decodeTableWord nbits w = some i) :
    decode (frameOfTableWord nbits w) = .ok i := by
  unfold decodeTableWord at h
  split at h
  case h_1 j hj => rw [hj, Option.some.inj h]
  case h_2 => cases h
  case h_3 => cases h

/-- Settles O31: both halves are the step that takes a frame which decodes. -/
theorem stepPerformsDecodedCommand : Obligations.StepPerformsDecodedCommand := by
  unfold Obligations.StepPerformsDecodedCommand
  constructor
  · intro s f i rest hf
    exact step_of_decode_ok (waiting_inbox s _) hf
  · intro s nbits w i hw
    exact step_of_decode_ok (s := s.withFetchWord nbits w) rfl (decode_of_decodeTableWord hw)

/-! ## Commands in order -/

/-- R44: a frame, taken from the port or performed alone from the same registers, gets the same one response. -/
theorem step_answers_frame {s : State} {f : Frame} {rest : List Input} (hin : s.inbox = .command f :: rest)
    (s' : State) (hbanks : s.banks = s'.banks) : ∃ (t alone : State) (r : Response),
    step s = .next t ∧ t.inbox = rest ∧ t.responses = s.responses ++ [r] ∧
    performFrame f s' = .next alone ∧ alone.responses = s'.responses ++ [r] := by
  obtain ⟨b, r, hport, halone⟩ := performFrame_answers f { s with inbox := rest } s' hbanks
  exact ⟨_, _, r, (step_input s _ rest hin).trans hport, rfl, rfl, halone, rfl⟩

/-- R44: frames at the head of the port are taken in as many steps, one response each; what waits behind them is not. -/
theorem run_answers_frames (fs : List Frame) {s : State} {rest : List Input}
    (hin : s.inbox = fs.map .command ++ rest) : ∃ (t : State) (rs : List Response),
    runSteps fs.length s = .next t ∧ t.inbox = rest ∧ t.responses = s.responses ++ rs ∧ rs.length = fs.length := by
  induction fs generalizing s with
  | nil => exact ⟨s, [], run_zero s, hin, (List.append_nil _).symm, rfl⟩
  | cons f fs ih =>
    obtain ⟨u, -, r, hstep, huin, hur, -, -⟩ := step_answers_frame hin s rfl
    obtain ⟨t, rs, hrun, htin, htr, hlen⟩ := ih huin
    refine ⟨t, r :: rs, ?_, htin, ?_, congrArg (· + 1) hlen⟩
    · exact (run_succ _ s u hstep).trans hrun
    · rw [htr, hur, List.append_assoc, List.singleton_append]

/-- Settles O33: the run is cut before and after the frame `f`; the two parts around it are runs of frames. -/
theorem oneResponsePerCommandInOrder : Obligations.OneResponsePerCommandInOrder := by
  unfold Obligations.OneResponsePerCommandInOrder
  intro s before f after rest
  obtain ⟨mid, rs, hmid, hmidIn, hmidR, hrs⟩ := run_answers_frames before
    (s := waiting s ((before ++ f :: after).map .command ++ rest)) (rest := (f :: after).map .command ++ rest)
    (by simp)
  obtain ⟨u, alone, r, hstep, huin, hur, halone, haloneR⟩ :=
    step_answers_frame hmidIn { s with banks := mid.banks } rfl
  obtain ⟨t, rs', hrun, htin, htr, hrs'⟩ := run_answers_frames after huin
  refine ⟨mid, t, rs, rs', r, hmid, hmidIn, hmidR, hrs, ⟨alone, halone, haloneR⟩, ?_, htin, ?_, hrs'⟩
  · have hrest : runSteps (after.length + 1) mid = .next t := (run_succ _ mid u hstep).trans hrun
    rw [Nat.add_assoc, Nat.add_comm 1]
    exact (run_add _ _ _ _ hmid).trans hrest
  · simp [htr, hur, hmidR]

/-! ## A command repeated -/

@[simp] theorem Machine.Banks.putBank_bank (b : Banks) (u : Block) : b.putBank u (b.bank u) = b := by
  cases u <;> rfl

@[simp] theorem Machine.Banks.putBank_putBank_self (b : Banks) (u : Block) (x y : u.Bank) :
    (b.putBank u x).putBank u y = b.putBank u y := by
  cases u <;> rfl

/-- R48: the operations with no effect on the registers. -/
theorem newBank_of_readOut {i : Instr} (h : i.op ∈ [.mul, .f64End, .f256End, .s64Dump])
    (x : i.op.block.Bank) : i.newBank x = x := by
  cases i with
  | mul | f64End | f256End | s64Dump => rfl
  | _ => simp [Instr.op] at h

/-- R48: a set-up writes its bank from its operands alone, or, a seed of a wrong count, not at all. -/
theorem newBank_newBank_of_setUp {i : Instr} (h : i.op ∈ [.f64Begin, .f256Begin, .r64Seed, .s64Seed])
    (x : i.op.block.Bank) : i.newBank (i.newBank x) = i.newBank x := by
  cases i with
  | f64Begin | f256Begin | r64Seed => rfl
  | s64Seed seeds =>
    by_cases hlen : seeds.length = 16
    · rw [newBank_s64Seed _ hlen, newBank_s64Seed _ hlen]
    · rw [newBank_s64Seed_reject _ hlen]
  | _ => simp [Instr.op] at h

theorem after_of_readOut (b : Banks) {i : Instr} (h : i.op ∈ [.mul, .f64End, .f256End, .s64Dump]) :
    b.after i = b := by
  rw [Banks.after, newBank_of_readOut h, Banks.putBank_bank]

theorem after_after_of_setUp (b : Banks) {i : Instr} (h : i.op ∈ [.f64Begin, .f256Begin, .r64Seed, .s64Seed]) :
    (b.after i).after i = b.after i := by
  simp [Banks.after, newBank_newBank_of_setUp h]

/-- Settles O44: a read-out leaves the banks it answers from; a set-up done twice leaves what once leaves. -/
theorem readOutsRepeatAndSetupsAreIdempotent : Obligations.ReadOutsRepeatAndSetupsAreIdempotent := by
  unfold Obligations.ReadOutsRepeatAndSetupsAreIdempotent
  intro i s
  constructor
  · intro h
    have hbanks : s.banks.after i = s.banks := after_of_readOut s.banks h
    refine ⟨_, _, i.response (s.banks.bank i.op.block), exec_eq_after i s, exec_eq_after i _, ?_, ?_, rfl, ?_⟩ <;>
      simp [hbanks]
  · intro h
    exact ⟨_, _, exec_eq_after i s, exec_eq_after i _, after_after_of_setUp s.banks h⟩

end Sys2Proof
end

section
/-!
PROOFS. The opcode map, the decoder and its verdicts, and the shape of what each frame is answered (family 30).
-/
namespace Sys2Proof

open Machine

/-! ## The opcode map -/

/-- R58: the row of an operation: header, required operand count, result count. -/
def Op.row (op : Op) : Header × Option Nat × Nat := (op.header, op.operandCount, op.resultCount)

theorem Op.mem_all (op : Op) : op ∈ Op.all := by
  cases op <;> decide

/-- R58: the spec's table, as the statements write it out, has one row for each operation and no other. -/
theorem opcodeRows_eq_map_row : opcodeRows = Op.all.map Op.row := by
  decide

theorem mem_opcodeRows {row : Header × Option Nat × Nat} : row ∈ opcodeRows ↔ ∃ op : Op, op.row = row := by
  simp [opcodeRows_eq_map_row, Op.mem_all]

theorem opOfHeader_eq_some_iff {h : Header} {op : Op} : opOfHeader h = some op ↔ op.header = h := by
  constructor
  · exact header_of_opOfHeader
  · rintro rfl; exact opOfHeader_header op

theorem opOfHeader_eq_none_iff {h : Header} : opOfHeader h = none ↔ ∀ row ∈ opcodeRows, row.1 ≠ h := by
  simp [Option.eq_none_iff_forall_ne_some, opOfHeader_eq_some_iff, mem_opcodeRows, Op.row]

/-- R63: the headers that name no operation, told by their `UNIT` and `FUNC` fields: all 256 are looked at. -/
theorem reserved_iff_opOfHeader_eq_none : ∀ h : Header,
    (5 ≤ h.toNat / 16 ∨ 4 ≤ h.toNat % 16 ∨ h ∈ [0x01#8, 0x02#8, 0x03#8, 0x32#8, 0x33#8, 0x42#8]) ↔
      opOfHeader h = none := by
  decide

/-- R63: of the 256 header values 14 are assigned, and the rest are reserved. -/
theorem card_reserved_headers :
    ((List.range 256).filter fun n => decide (opOfHeader (BitVec.ofNat 8 n) = none)).length = 242 := by
  have hassigned : ((List.range 256).filter fun n => !decide (opOfHeader (BitVec.ofNat 8 n) = none)).length = 14 := rfl
  have hall := List.length_eq_length_filter_add (l := List.range 256)
    fun n => decide (opOfHeader (BitVec.ofNat 8 n) = none)
  rw [hassigned, List.length_range] at hall
  exact Nat.add_right_cancel hall.symm

/-! ## Operations and their operands -/

theorem blockFits_iff {bound : Option Nat} {n : Nat} :
    blockFits bound n = true ↔ ∀ b, bound = some b → n ≤ b := by
  cases bound <;> simp [blockFits]

/-- R59, R143: the operand counts an operation accepts. -/
theorem Op.accepts_iff {bound : Option Nat} {op : Op} {n : Nat} : op.accepts bound n = true ↔
    op.operandCount = some n ∨ op.operandCount = none ∧ ∀ b, bound = some b → n ≤ b := by
  unfold Op.accepts
  split
  case h_1 need hneed => simp [hneed, eq_comm (a := n)]
  case h_2 hnone => simp [hnone, blockFits_iff]

/-- An instruction is well formed when its operation accepts the number of its operands. -/
theorem Instr.accepts_operands (bound : Option Nat) (i : Instr) :
    i.op.accepts bound i.operands.length = i.wellFormedWith bound := by
  cases i <;> rfl

/-- R143: a bound on blocks only takes away. -/
theorem Instr.wellFormed_of_wellFormedWith {bound : Option Nat} {i : Instr} (h : i.wellFormedWith bound = true) :
    i.wellFormed = true := by
  rw [← Instr.accepts_operands, Op.accepts_iff] at h
  rw [Instr.wellFormed, ← Instr.accepts_operands, Op.accepts_iff]
  obtain hfixed | ⟨hblock, -⟩ := h
  · exact .inl hfixed
  · exact .inr ⟨hblock, fun b hb => nomatch hb⟩

/-- The laws of Laws/PerInstr.lean, together. -/
theorem Instr.buildsBack : (i : Instr) → Laws.BuildsBack.Statement i
  | .mul a b => Laws.BuildsBack.mul a b
  | .f64Begin => Laws.BuildsBack.f64Begin
  | .f64Word w => Laws.BuildsBack.f64Word w
  | .f64Block ws => Laws.BuildsBack.f64Block ws
  | .f64End => Laws.BuildsBack.f64End
  | .f256Begin => Laws.BuildsBack.f256Begin
  | .f256Word w => Laws.BuildsBack.f256Word w
  | .f256Block ws => Laws.BuildsBack.f256Block ws
  | .f256End => Laws.BuildsBack.f256End
  | .r64Seed value => Laws.BuildsBack.r64Seed value
  | .r64Draw => Laws.BuildsBack.r64Draw
  | .s64Seed seeds => Laws.BuildsBack.s64Seed seeds
  | .s64Draw => Laws.BuildsBack.s64Draw
  | .s64Dump => Laws.BuildsBack.s64Dump

/-- R41: words of an accepted number are the operands of one of the operation's instructions: the list is spelled out
to the length required. -/
theorem Op.exists_instr {bound : Option Nat} {op : Op} {ws : List Word} (h : op.accepts bound ws.length = true) :
    ∃ i : Instr, i.op = op ∧ i.operands = ws := by
  have hfixed (n : Nat) (hn : op.operandCount = some n) : ws.length = n := by
    simpa [Op.accepts, hn] using h
  have hnil (hn : op.operandCount = some 0) : [] = ws := (List.length_eq_zero_iff.mp (hfixed 0 hn)).symm
  cases op with
  | mul =>
    obtain ⟨a, b, rfl⟩ := List.length_eq_two.mp (hfixed 2 rfl)
    exact ⟨.mul a b, rfl, rfl⟩
  | f64Begin => exact ⟨.f64Begin, rfl, hnil rfl⟩
  | f64Word =>
    obtain ⟨w, rfl⟩ := List.length_eq_one_iff.mp (hfixed 1 rfl)
    exact ⟨.f64Word w, rfl, rfl⟩
  | f64Block => exact ⟨.f64Block ws, rfl, rfl⟩
  | f64End => exact ⟨.f64End, rfl, hnil rfl⟩
  | f256Begin => exact ⟨.f256Begin, rfl, hnil rfl⟩
  | f256Word =>
    obtain ⟨w, rfl⟩ := List.length_eq_one_iff.mp (hfixed 1 rfl)
    exact ⟨.f256Word w, rfl, rfl⟩
  | f256Block => exact ⟨.f256Block ws, rfl, rfl⟩
  | f256End => exact ⟨.f256End, rfl, hnil rfl⟩
  | r64Seed =>
    obtain ⟨w, rfl⟩ := List.length_eq_one_iff.mp (hfixed 1 rfl)
    exact ⟨.r64Seed w, rfl, rfl⟩
  | r64Draw => exact ⟨.r64Draw, rfl, hnil rfl⟩
  | s64Seed => exact ⟨.s64Seed ws, rfl, rfl⟩
  | s64Draw => exact ⟨.s64Draw, rfl, hnil rfl⟩
  | s64Dump => exact ⟨.s64Dump, rfl, hnil rfl⟩

/-! ## The three verdicts -/

section
variable {bound : Option Nat} {f : Frame} {op : Op} {i : Instr}

theorem decodeWith_of_reserved (h : opOfHeader f.hdr = none) : decodeWith bound f = .illegalCommand := by
  simp [decodeWith, h]

theorem decodeWith_of_not_accepts (h : opOfHeader f.hdr = some op)
    (ha : ¬ op.accepts bound f.operands.length = true) : decodeWith bound f = .invalidArgument := by
  simp [decodeWith, h, ha]

theorem decodeWith_encode (h : i.wellFormedWith bound = true) : decodeWith bound (encode i) = .ok i := by
  obtain ⟨hhdr, hbuild, -⟩ := i.buildsBack
  have haccepts : i.op.accepts bound i.operands.length = true := (i.accepts_operands bound).trans h
  simp only [decodeWith, hhdr]
  simp only [encode, haccepts, hbuild, if_true]

/-- R59: a frame whose header names an operation that accepts its count is a well-formed instruction's own. -/
theorem exists_encode_of_accepts (h : opOfHeader f.hdr = some op)
    (ha : op.accepts bound f.operands.length = true) : ∃ i, encode i = f ∧ i.wellFormedWith bound = true := by
  obtain ⟨i, rfl, hws⟩ := Op.exists_instr ha
  have hframe : encode i = f := by rw [encode, header_of_opOfHeader h, hws]
  have hwf : i.wellFormedWith bound = true := by rw [← Instr.accepts_operands, hws, ha]
  exact ⟨i, hframe, hwf⟩

/-- R59: a frame decodes to an instruction when it is its own frame and the count will do. -/
theorem decodeWith_eq_ok_iff : decodeWith bound f = .ok i ↔ encode i = f ∧ i.wellFormedWith bound = true := by
  constructor
  · intro h
    cases hop : opOfHeader f.hdr with
    | none => rw [decodeWith_of_reserved hop] at h; cases h
    | some op =>
      by_cases ha : op.accepts bound f.operands.length = true
      · obtain ⟨j, rfl, hj⟩ := exists_encode_of_accepts hop ha
        obtain rfl : j = i := Verdict.ok.inj ((decodeWith_encode hj).symm.trans h)
        exact ⟨rfl, hj⟩
      · rw [decodeWith_of_not_accepts hop ha] at h; cases h
  · rintro ⟨rfl, h⟩; exact decodeWith_encode h

theorem decodeWith_ne_illegal (h : opOfHeader f.hdr = some op) : decodeWith bound f ≠ .illegalCommand := by
  by_cases ha : op.accepts bound f.operands.length = true
  · obtain ⟨i, rfl, hi⟩ := exists_encode_of_accepts h ha
    simp [decodeWith_encode hi]
  · simp [decodeWith_of_not_accepts h ha]

end

/-- Settles O26, for the bound of the modelled block. -/
theorem encodeDecodeAgree : Obligations.EncodeDecodeAgree := by
  unfold Obligations.EncodeDecodeAgree
  exact ⟨fun _ => decodeWith_encode, fun _ _ => decodeWith_eq_ok_iff.mp⟩

/-- Settles O30: the written frames are the encoder's, and the three neighbours are reserved. -/
theorem writtenFramesDecode : Obligations.WrittenFramesDecode := by
  unfold Obligations.WrittenFramesDecode
  intro a b
  refine ⟨?_, ?_, ?_, ?_, ?_, ?_, ?_, ?_, ?_, ?_⟩
  · exact decodeWith_encode (i := .mul a b) rfl
  · exact decodeWith_encode (i := .f64Word a) rfl
  · exact decodeWith_encode (i := .f64Block [a, b]) rfl
  · exact decodeWith_encode (i := .f256End) rfl
  · exact decodeWith_encode (i := .r64Seed a) rfl
  · exact decodeWith_encode (i := .s64Draw) rfl
  · exact decodeWith_encode (i := .s64Dump) rfl
  · exact decodeWith_of_reserved (show opOfHeader 0x42#8 = none by decide)
  · exact decodeWith_of_reserved (show opOfHeader 0x01#8 = none by decide)
  · exact decodeWith_of_reserved (show opOfHeader 0x32#8 = none by decide)

/-- Settles O28: a header is reserved when the opcode map has no operation for it, and then it is judged first. -/
theorem reservedHeadersAreIllegal : Obligations.ReservedHeadersAreIllegal := by
  unfold Obligations.ReservedHeadersAreIllegal
  refine ⟨fun h ws s => ⟨?_, ?_, ?_⟩, card_reserved_headers, rfl, rfl⟩
  · rw [reserved_iff_opOfHeader_eq_none, opOfHeader_eq_none_iff]
    simp only [List.mem_map, not_exists, not_and, ne_eq]
  · intro hreserved
    exact performFrame_illegal s (decodeWith_of_reserved ((reserved_iff_opOfHeader_eq_none h).mp hreserved))
  · intro hassigned
    rw [reserved_iff_opOfHeader_eq_none, ← ne_eq, Option.ne_none_iff_exists'] at hassigned
    obtain ⟨op, hop⟩ := hassigned
    exact decodeWith_ne_illegal hop

/-! ## What a frame is answered -/

/-- R144: a well-formed command's response is `OK`, whatever its bank holds. -/
theorem response_status_of_wellFormed {i : Instr} (h : i.wellFormed = true) (b : i.op.block.Bank) :
    (i.response b).status = .ok := by
  cases i with
  | s64Seed seeds => simpa [response_s64Seed, Instr.wellFormed, Instr.wellFormedWith] using h
  | _ => rfl

/-- R58: the row of an operation gives the number of its result words. -/
theorem response_words_length (i : Instr) (b : i.op.block.Bank) : (i.response b).words.length = i.op.resultCount := by
  cases i with
  | f256End => exact Vector.length_toList
  | s64Dump => exact Vector.length_toList
  | _ => rfl

theorem exec_answers_ok {i : Instr} (h : i.wellFormed = true) (s : State) : ∃ (t : State) (q : List Word),
    exec i s = .next t ∧ t.responses = s.responses ++ [⟨.ok, q⟩] := by
  refine ⟨_, (i.response (s.banks.bank i.op.block)).words, exec_eq_after i s, ?_⟩
  rw [respond_responses, ← response_status_of_wellFormed h]

/-- Settles O27: the header's operation, its accepted counts and the frame it then is, in the order of R59. -/
theorem verdictsInOrder : Obligations.VerdictsInOrder := by
  unfold Obligations.VerdictsInOrder
  intro bound f
  constructor
  · intro hrows
    have hop := opOfHeader_eq_none_iff.mpr hrows
    exact ⟨decodeWith_of_reserved hop, fun s => performFrame_illegal s (decodeWith_of_reserved hop)⟩
  · intro row hrow hhdr
    obtain ⟨op, rfl⟩ := mem_opcodeRows.mp hrow
    have hop : opOfHeader f.hdr = some op := opOfHeader_eq_some_iff.mpr hhdr
    refine ⟨?_, ?_, ?_⟩
    · intro n (hn : op.operandCount = some n) hlen
      have hno : ¬ op.accepts bound f.operands.length = true := by
        simpa [Op.accepts_iff, hn] using Ne.symm hlen
      exact ⟨decodeWith_of_not_accepts hop hno,
        fun s => performFrame_invalid s (decode_wrong_count hop hn hlen)⟩
    · rintro b (hblock : op.operandCount = none) rfl hlong
      exact decodeWith_of_not_accepts hop (by simpa [Op.accepts_iff, hblock] using hlong)
    · intro hcount
      obtain ⟨i, hframe, hbounded⟩ := exists_encode_of_accepts hop (Op.accepts_iff.mpr hcount)
      have hwf : i.wellFormed = true := Instr.wellFormed_of_wellFormedWith hbounded
      have hdecode : decode f = .ok i := decodeWith_eq_ok_iff.mpr ⟨hframe, hwf⟩
      exact ⟨i, decodeWith_eq_ok_iff.mpr ⟨hframe, hbounded⟩, hframe,
        fun s => ⟨performFrame_ok s hdecode, exec_answers_ok hwf s⟩⟩

theorem Status.code_ne_three (st : Status) : st.code ≠ 3 := by
  cases st <;> decide

/-- Settles O40: by the three verdicts. -/
theorem responseHasItsShape : Obligations.ResponseHasItsShape := by
  unfold Obligations.ResponseHasItsShape
  intro f s
  cases hf : decode f with
  | ok i =>
    obtain ⟨rfl, hwf⟩ := decodeWith_eq_ok_iff.mp hf
    refine ⟨_, _, (performFrame_ok s hf).trans (exec_eq_after i s), rfl, fun _ => ?_, fun hnot => ?_,
      Status.code_ne_three _⟩
    · exact ⟨i.op.row, mem_opcodeRows.mpr ⟨_, rfl⟩, rfl, response_words_length i _⟩
    · exact absurd (response_status_of_wellFormed hwf _) hnot
  | invalidArgument =>
    exact ⟨_, _, performFrame_invalid s hf, rfl, nofun, fun _ => rfl, Status.code_ne_three _⟩
  | illegalCommand =>
    exact ⟨_, _, performFrame_illegal s hf, rfl, nofun, fun _ => rfl, Status.code_ne_three _⟩

/-! ## The invariant -/

theorem resultCount_mem_of_mem_opcodeRows : ∀ row ∈ opcodeRows, row.2.2 ∈ [0, 1, 2, 4, 16] := by
  decide

/-- R61: every frame's response is of the right shape. -/
theorem performFrame_wellShaped (f : Frame) (s : State) : ∃ (t : State) (r : Response),
    performFrame f s = .next t ∧ t.responses = s.responses ++ [r] ∧ r.WellShaped := by
  obtain ⟨t, r, hperform, hresponses, hok, hnot, -⟩ := responseHasItsShape f s
  refine ⟨t, r, hperform, hresponses, fun hstatus => ?_, hnot⟩
  obtain ⟨row, hrow, -, hlen⟩ := hok hstatus
  rw [hlen]
  exact resultCount_mem_of_mem_opcodeRows row hrow

/-- Settles O41: an idle step and a reset append no response, and a command appends one of the right shape. -/
theorem stepKeepsResponsesWellShaped : Obligations.StepKeepsResponsesWellShaped := by
  unfold Obligations.StepKeepsResponsesWellShaped
  intro s t hs hstep
  cases hin : s.inbox with
  | nil =>
    rw [step_idle s hin] at hstep
    cases hstep
    exact hs
  | cons e rest =>
    rw [step_input s e rest hin] at hstep
    cases e with
    | command f =>
      obtain ⟨u, r, hperform, hresponses, hr⟩ := performFrame_wellShaped f { s with inbox := rest }
      obtain rfl : u = t := Host.Outcome.next.inj (hperform.symm.trans hstep)
      rw [State.WellShaped, hresponses]
      exact List.forall_mem_append.mpr ⟨hs, List.forall_mem_singleton.mpr hr⟩
    | reset => cases hstep; exact hs
    | resetDuring f => cases hstep; exact hs

end Sys2Proof
end

section
/-!
PROOFS. The wide product, its reference multiplier by 32-bit halves, and the command `MUL` (family 40).
-/
namespace Sys2Proof

open Machine

/-! ## The exact product -/

/-- A pair of words is told by the two numbers it holds. -/
theorem Machine.WideProduct.ext_toNat {p q : WideProduct} (hlow : p.low.toNat = q.low.toNat)
    (hhigh : p.high.toNat = q.high.toNat) : p = q :=
  congrArg₂ WideProduct.mk (BitVec.eq_of_toNat_eq hlow) (BitVec.eq_of_toNat_eq hhigh)

theorem wideMul_low_add_high (a b : Word) :
    (wideMul a b).low.toNat + (wideMul a b).high.toNat * 2 ^ 64 = a.toNat * b.toNat := by
  rw [wideMul_low_toNat, wideMul_high_toNat, Nat.mul_comm _ (2 ^ 64), Nat.mod_add_div]

/-- R80: the identity on naturals has no other solution in words. -/
theorem wideMul_eq_iff {a b : Word} {p : WideProduct} :
    wideMul a b = p ↔ p.low.toNat + p.high.toNat * 2 ^ 64 = a.toNat * b.toNat := by
  constructor
  · rintro rfl
    exact wideMul_low_add_high a b
  · intro h
    have hlow := p.low.isLt
    apply WideProduct.ext_toNat
    · rw [wideMul_low_toNat, ← h]
      omega
    · rw [wideMul_high_toNat, ← h]
      omega

/-- R80: the low half is reduced modulo 2^64 by the word that holds it. -/
theorem wideMul_low_eq_ofNat (a b : Word) : (wideMul a b).low = BitVec.ofNat 64 (a.toNat * b.toNat) := by
  apply BitVec.eq_of_toNat_eq
  rw [wideMul_low_toNat, BitVec.toNat_ofNat]

/-- Settles O1: low and high are remainder and quotient of the product by 2^64. -/
theorem wideProductIsExact : Obligations.WideProductIsExact := by
  unfold Obligations.WideProductIsExact
  intro a b
  exact ⟨wideMul_low_toNat a b, wideMul_high_toNat a b, wideMul_low_add_high a b⟩

/-! ## The laws of R81 -/

theorem wideMul_low (a b : Word) : (wideMul a b).low = a * b := by
  simp [wideMul_low_eq_ofNat, BitVec.ofNat_mul]

theorem wideMul_comm (a b : Word) : wideMul a b = wideMul b a := by
  rw [wideMul_eq_iff, wideMul_low_add_high, Nat.mul_comm]

theorem wideMul_zero (a : Word) : wideMul a 0 = ⟨0, 0⟩ := by
  simp [wideMul_eq_iff]

theorem wideMul_one (a : Word) : wideMul a 1 = ⟨a, 0⟩ := by
  simp [wideMul_eq_iff]

/-- R81 (f): the product by 2^k is a shift, in 128 bits, and 2^64 = 2^(64-k) × 2^k cuts the shifted word. -/
theorem wideMul_two_pow (a : Word) {k : Nat} (hk : k ≤ 63) :
    wideMul a (BitVec.ofNat 64 (2 ^ k)) = ⟨a <<< k, a >>> (64 - k)⟩ := by
  have hpow : (BitVec.ofNat 64 (2 ^ k)).toNat = 2 ^ k :=
    Nat.mod_eq_of_lt (Nat.pow_lt_pow_right (by decide) (by omega))
  have hcut : 2 ^ 64 = 2 ^ (64 - k) * 2 ^ k := by
    rw [← Nat.pow_add, Nat.sub_add_cancel (by omega)]
  apply WideProduct.ext_toNat
  · rw [wideMul_low_toNat, hpow, BitVec.toNat_shiftLeft, Nat.shiftLeft_eq]
  · rw [wideMul_high_toNat, hpow, BitVec.toNat_ushiftRight, Nat.shiftRight_eq_div_pow, hcut,
      Nat.mul_div_mul_right _ _ (Nat.two_pow_pos k)]

theorem wideMul_high_eq_zero_iff (a b : Word) : (wideMul a b).high = 0 ↔ a.toNat * b.toNat < 2 ^ 64 := by
  rw [← BitVec.toNat_inj, wideMul_high_toNat]
  exact Nat.div_eq_zero_iff_lt (by decide)

theorem wideMul_high_le (a b : Word) : (wideMul a b).high.toNat ≤ 2 ^ 64 - 2 := by
  have hprod : a.toNat * b.toNat ≤ (2 ^ 64 - 1) * (2 ^ 64 - 1) :=
    Nat.mul_le_mul (Nat.le_sub_one_of_lt a.isLt) (Nat.le_sub_one_of_lt b.isLt)
  rw [wideMul_high_toNat]
  omega

/-- R81 (b): an operand below the largest keeps the high half below its bound. -/
theorem eq_max_of_wideMul_high_eq {a b : Word} (h : (wideMul a b).high.toNat = 2 ^ 64 - 2) :
    a.toNat = 2 ^ 64 - 1 := by
  by_contra hne
  have ha : a.toNat ≤ 2 ^ 64 - 2 := by have := a.isLt; omega
  have hprod : a.toNat * b.toNat ≤ (2 ^ 64 - 2) * (2 ^ 64 - 1) :=
    Nat.mul_le_mul ha (Nat.le_sub_one_of_lt b.isLt)
  rw [wideMul_high_toNat] at h
  omega

theorem wideMul_high_eq_max_iff (a b : Word) :
    (wideMul a b).high.toNat = 2 ^ 64 - 2 ↔ a.toNat = 2 ^ 64 - 1 ∧ b.toNat = 2 ^ 64 - 1 := by
  constructor
  · intro h
    exact ⟨eq_max_of_wideMul_high_eq h, eq_max_of_wideMul_high_eq (wideMul_comm a b ▸ h)⟩
  · rintro ⟨ha, hb⟩
    rw [wideMul_high_toNat, ha, hb]
    rfl

/-- Settles O2, law by law; the worked products are solutions of R80's identity. -/
theorem wideProductLaws : Obligations.WideProductLaws := by
  unfold Obligations.WideProductLaws
  intro a b
  exact ⟨wideMul_low a b, wideMul_high_le a b, wideMul_high_eq_max_iff a b, wideMul_comm a b,
    wideMul_zero a, (wideMul_comm 0 a).trans (wideMul_zero a), wideMul_one a,
    fun _ hk => wideMul_two_pow a hk, wideMul_high_eq_zero_iff a b,
    wideMul_eq_iff.mpr rfl, wideMul_eq_iff.mpr rfl, wideMul_eq_iff.mpr rfl⟩

/-! ## The reference multiplier of R82 -/

theorem lowHalf_lt (v : Word) : (lowHalf v).toNat < 2 ^ 32 := by
  rw [lowHalf_toNat]
  exact Nat.mod_lt _ (by decide)

theorem highHalf_lt (v : Word) : (highHalf v).toNat < 2 ^ 32 := by
  rw [highHalf_toNat]
  exact Nat.div_lt_of_lt_mul v.isLt

theorem lowHalf_add_highHalf (v : Word) : (lowHalf v).toNat + (highHalf v).toNat * 2 ^ 32 = v.toNat := by
  rw [lowHalf_toNat, highHalf_toNat, Nat.mul_comm _ (2 ^ 32), Nat.mod_add_div]

/-- R82: neither a partial product nor the shift of the middle sum's low half wraps. -/
theorem toNat_mul_of_lt {x y : Word} (hx : x.toNat < 2 ^ 32) (hy : y.toNat ≤ 2 ^ 32) :
    (x * y).toNat = x.toNat * y.toNat := by
  rw [BitVec.toNat_mul]
  refine Nat.mod_eq_of_lt ?_
  calc x.toNat * y.toNat ≤ x.toNat * 2 ^ 32 := Nat.mul_le_mul_left _ hy
    _ < 2 ^ 32 * 2 ^ 32 := Nat.mul_lt_mul_of_pos_right hx (by decide)

/-- R83: the product from the four partial products. -/
theorem toNat_mul_toNat_eq_partial_products (a b : Word) : a.toNat * b.toNat =
    (lowHalf a * lowHalf b).toNat +
      ((highHalf a * lowHalf b).toNat + (lowHalf a * highHalf b).toNat) * 2 ^ 32 +
      (highHalf a * highHalf b).toNat * 2 ^ 64 := by
  rw [toNat_mul_of_lt (lowHalf_lt a) (lowHalf_lt b).le, toNat_mul_of_lt (highHalf_lt a) (lowHalf_lt b).le,
    toNat_mul_of_lt (lowHalf_lt a) (highHalf_lt b).le, toNat_mul_of_lt (highHalf_lt a) (highHalf_lt b).le,
    ← lowHalf_add_highHalf a, ← lowHalf_add_highHalf b]
  ring

/-- R83: a wrapped sum and its carry, the carry as the number 0 or 1. -/
theorem addWithCarry_toNat (x y : Word) :
    (addWithCarry x y).1.toNat + (addWithCarry x y).2.toNat * 2 ^ 64 = x.toNat + y.toNat := by
  rw [← addWithCarry_spec]
  cases (addWithCarry x y).2 <;> rfl

/-- R82: an accumulator takes in `y` when a carry says so. -/
theorem toNat_add_if (c : Bool) (x y : Word) :
    (if c then x + y else x).toNat = (x.toNat + c.toNat * y.toNat) % 2 ^ 64 := by
  cases c with
  | false => simpa using (Nat.mod_eq_of_lt x.isLt).symm
  | true => simp

/-- R83: the accumulator `high`, that starts as `p3`, holds the bracket modulo 2^64. -/
theorem toNat_accumulated (c1 c2 : Bool) (p3 m : Word) :
    ((if c2 then (if c1 then p3 + 0x100000000 else p3) + 1 else if c1 then p3 + 0x100000000 else p3) + m).toNat =
      (p3.toNat + c1.toNat * 2 ^ 32 + c2.toNat + m.toNat) % 2 ^ 64 := by
  rw [BitVec.toNat_add, toNat_add_if, toNat_add_if]
  simp

/-- R83: the partial products collected by their carries: the bracket is below 2^64, so `high` does not wrap. -/
theorem mulRef_low_add_high (a b : Word) :
    (mulRef a b).low.toNat + (mulRef a b).high.toNat * 2 ^ 64 = a.toNat * b.toNat := by
  have hprod := toNat_mul_toNat_eq_partial_products a b
  have hmid := addWithCarry_toNat (highHalf a * lowHalf b) (lowHalf a * highHalf b)
  simp only [mulRef, toNat_accumulated]
  generalize addWithCarry (highHalf a * lowHalf b) (lowHalf a * highHalf b) = mid at *
  have hhalves := lowHalf_add_highHalf mid.1
  have hshift : (lowHalf mid.1 * 0x100000000).toNat = (lowHalf mid.1).toNat * 2 ^ 32 :=
    toNat_mul_of_lt (lowHalf_lt mid.1) (by decide)
  have hlow := addWithCarry_toNat (lowHalf a * lowHalf b) (lowHalf mid.1 * 0x100000000)
  generalize addWithCarry (lowHalf a * lowHalf b) (lowHalf mid.1 * 0x100000000) = low at *
  have hbracket : low.1.toNat + ((highHalf a * highHalf b).toNat + mid.2.toNat * 2 ^ 32 + low.2.toNat +
      (highHalf mid.1).toNat) * 2 ^ 64 = a.toNat * b.toNat := by
    linarith
  have hlt : a.toNat * b.toNat < 2 ^ 64 * 2 ^ 64 := Nat.mul_lt_mul_of_lt_of_lt a.isLt b.isLt
  rw [Nat.mod_eq_of_lt, hbracket]
  exact Nat.lt_of_mul_lt_mul_right (a := 2 ^ 64) (by linarith)

/-- Settles O3: both pairs solve R80's identity. -/
theorem referenceMultiplierIsExact : Obligations.ReferenceMultiplierIsExact := by
  unfold Obligations.ReferenceMultiplierIsExact
  intro a b
  exact (wideMul_eq_iff.mpr (mulRef_low_add_high a b)).symm

/-! ## The command -/

theorem performFrame_encode {i : Instr} (h : i.wellFormed = true) (s : State) :
    performFrame (encode i) s = exec i s :=
  performFrame_ok s (decodeWith_encode h)

/-- R143: an operation of a fixed operand count rejects every other. -/
theorem rejectsOtherCounts_header {op : Op} {n : Nat} (h : op.operandCount = some n) (s : State) :
    RejectsOtherCounts op.header n s :=
  fun _ hlen => performFrame_invalid s (decode_wrong_count (opOfHeader_header op) h hlen)

/-- Settles O4: `MUL` appends one response and writes nothing; its frame is the encoder's. -/
theorem mulRule : Obligations.MulRule := by
  unfold Obligations.MulRule
  intro a b s
  refine ⟨?_, performFrame_encode (i := .mul a b) rfl s, rejectsOtherCounts_header (op := .mul) rfl s⟩
  rw [← wideMul_low_eq_ofNat]
  exact execMul_eq a b s

end Sys2Proof
end

section
/-!
PROOFS. The unit `fash64`: what each of its commands does, and the digest of any stream (family 41).
-/
namespace Sys2Proof

open Machine

/-! ## Any command through the port, well formed or not -/

/-- R143: an instruction's frame is rejected for its count exactly when the instruction is not well formed. -/
theorem decodeWith_encode_eq_invalidArgument_iff {bound : Option Nat} {i : Instr} :
    decodeWith bound (encode i) = .invalidArgument ↔ i.wellFormedWith bound = false := by
  cases h : i.wellFormedWith bound with
  | true => simp [decodeWith_encode h]
  | false =>
    have hno : ¬ i.op.accepts bound i.operands.length = true := by simp [i.accepts_operands, h]
    simp [decodeWith_of_not_accepts (f := encode i) (opOfHeader_header i.op) hno]

/-- R122: the only instructions that are not well formed are seeds of a wrong count. -/
theorem exec_of_not_wellFormed {i : Instr} (h : i.wellFormed = false) (s : State) :
    exec i s = .next (s.reject .invalidArgument) := by
  cases i with
  | s64Seed seeds => exact execS64Seed_reject seeds s (by simpa [Instr.wellFormed, Instr.wellFormedWith] using h)
  | _ => cases h

/-- R59: an instruction's frame does what the instruction does, a rejected one's too. -/
theorem performFrame_encode_eq_exec (i : Instr) (s : State) : performFrame (encode i) s = exec i s := by
  cases h : i.wellFormed with
  | true => exact performFrame_encode h s
  | false =>
    rw [exec_of_not_wellFormed h, performFrame_invalid s (decodeWith_encode_eq_invalidArgument_iff.mpr h)]

/-- R44: the step that takes a command writes its unit's bank and appends its response. -/
theorem step_command {s : State} {i : Instr} {rest : List Input} (hin : s.inbox = .command (encode i) :: rest) :
    step s = .next (({ s with inbox := rest, banks := s.banks.after i } : State).respond
      (i.response (s.banks.bank i.op.block))) :=
  (step_input s _ rest hin).trans ((performFrame_encode_eq_exec i _).trans (exec_eq_after i _))

/-- R44: the commands at the head of the port are performed in order, one step each. -/
theorem run_commands (is : List Instr) {s : State} {rest : List Input} (hin : s.inbox = commandsOf is ++ rest) :
    ∃ t : State, runSteps is.length s = .next t ∧ t.inbox = rest ∧ t.banks = is.foldl Banks.after s.banks := by
  induction is generalizing s with
  | nil => exact ⟨s, run_zero s, hin, rfl⟩
  | cons i is ih =>
    have hstep := step_command hin
    obtain ⟨t, hrun, htin, hbanks⟩ := ih (s := ({ s with
      inbox := commandsOf is ++ rest, banks := s.banks.after i } : State).respond _) rfl
    exact ⟨t, (run_succ _ s _ hstep).trans hrun, htin, hbanks⟩

/-- A run of commands and then one more, whose response is the last: it is read from what the others left its unit. -/
theorem run_commands_last (is : List Instr) (i : Instr) {s : State} {rest : List Input}
    (hin : s.inbox = commandsOf (is ++ [i]) ++ rest) : ∃ t : State, runSteps (is.length + 1) s = .next t ∧
      t.inbox = rest ∧
      t.responses.getLast? = some (i.response ((is.foldl Banks.after s.banks).bank i.op.block)) := by
  obtain ⟨mid, hmid, hmidIn, hbanks⟩ := run_commands is (rest := .command (encode i) :: rest)
    (by simpa [commandsOf] using hin)
  refine ⟨_, (run_add is.length 1 s mid hmid).trans (run_succ 0 mid _ (step_command hmidIn)), rfl, ?_⟩
  rw [respond_responses, List.getLast?_concat, hbanks]

/-! ## Absorbing words -/

theorem f64AbsorbAll_append (c : Constants) (b : F64Bank) (xs ys : List Word) :
    f64AbsorbAll c b (xs ++ ys) = f64AbsorbAll c (f64AbsorbAll c b xs) ys :=
  List.foldl_append

/-- R95: the digest is the product that absorbing the words leaves, from the bank a `BEGIN` leaves. -/
theorem f64AbsorbAll_initial_product (c : Constants) (ws : List Word) :
    (f64AbsorbAll c (f64Initial c) ws).product = fash64 c ws := by
  rw [f64AbsorbAll_eq_fold]; rfl

/-- R26, R91 to R94: what a command but `F64.BEGIN` does to the bank is to absorb the words it feeds, if any. -/
theorem after_f64 (b : Banks) {i : Instr} (h : i ≠ .f64Begin) :
    (b.after i).f64 = f64AbsorbAll Config.constants b.f64 i.f64Words := by
  cases i with
  | f64Begin => exact absurd rfl h
  | _ => rfl

/-- R94, R95: however the words are split over commands, the bank absorbs them in order. -/
theorem foldl_after_f64 (is : List Instr) (b : Banks) (h : ∀ i ∈ is, i ≠ .f64Begin) :
    (is.foldl Banks.after b).f64 = f64AbsorbAll Config.constants b.f64 (is.flatMap Instr.f64Words) := by
  induction is generalizing b with
  | nil => rfl
  | cons i is ih =>
    obtain ⟨hi, his⟩ := List.forall_mem_cons.mp h
    rw [List.foldl_cons, ih _ his, after_f64 b hi, List.flatMap_cons, f64AbsorbAll_append]

theorem wideMul_zero_left (a : Word) : wideMul 0#64 a = ⟨0, 0⟩ :=
  (wideMul_comm 0 a).trans (wideMul_zero a)

/-! ## The four commands -/

/-- Settles O5: the bank `F64.BEGIN` writes is made of the constants alone. -/
theorem f64BeginRule : Obligations.F64BeginRule := by
  unfold Obligations.F64BeginRule
  intro s
  exact ⟨execF64Begin_eq s, performFrame_encode_eq_exec .f64Begin s,
    rejectsOtherCounts_header (op := .f64Begin) rfl s⟩

/-- Settles O6: the word step of the bank is R95's `step64`; a word equal to the product leaves zero to
multiply. -/
theorem f64WordRule : Obligations.F64WordRule := by
  unfold Obligations.F64WordRule
  intro w s
  refine ⟨?_, ?_, performFrame_encode_eq_exec (.f64Word w) s, rejectsOtherCounts_header (op := .f64Word) rfl s⟩
  · refine (execF64Word_eq w s).trans ?_
    rw [f64Absorb_eq_step64]
    rfl
  · rintro rfl
    simp [wideMul_zero_left]

/-- Settles O7: `F64.END` appends one response and writes nothing. -/
theorem f64EndRule : Obligations.F64EndRule := by
  unfold Obligations.F64EndRule
  intro s
  exact ⟨execF64End_eq s, performFrame_encode_eq_exec .f64End s, rejectsOtherCounts_header (op := .f64End) rfl s⟩

/-- R94: two blocks one after the other leave the registers as one block of both lists does. -/
theorem after_f64Block_append (b : Banks) (xs ys : List Word) :
    b.after (.f64Block (xs ++ ys)) = (b.after (.f64Block xs)).after (.f64Block ys) :=
  congrArg (b.putBank .fash64) (f64AbsorbAll_append _ b.f64 xs ys)

/-- Settles O8: a block is a fold over its words, and folds join; only a bound makes its instruction ill formed. -/
theorem f64BlockRule : Obligations.F64BlockRule := by
  unfold Obligations.F64BlockRule
  intro ws s
  refine ⟨?_, execF64Block_eq [] s, fun w => ?_, fun xs ys => ?_, performFrame_encode_eq_exec (.f64Block ws) s,
    fun bound => ?_⟩
  · refine (execF64Block_eq ws s).trans ?_
    rw [f64AbsorbAll_eq_fold]
    rfl
  · exact (execF64Block_eq [w] s).trans (execF64Word_eq w s).symm
  · exact ⟨_, _, _, exec_eq_after _ s, exec_eq_after _ _, exec_eq_after _ s, after_f64Block_append s.banks xs ys⟩
  · refine (decodeWith_encode_eq_invalidArgument_iff (i := .f64Block ws)).trans ?_
    simp [Instr.wellFormedWith, blockFits]

/-! ## The digest of a stream -/

/-- Settles O9: `F64.END` answers from what the commands before it left the bank, and that is the words absorbed from
the two constants. -/
theorem fash64DigestOfAnyStream : Obligations.Fash64DigestOfAnyStream := by
  unfold Obligations.Fash64DigestOfAnyStream
  intro s cmds rest hcmds
  obtain ⟨t, hrun, htin, hlast⟩ := run_commands_last (.f64Begin :: cmds) .f64End
    (s := waiting s (commandsOf (.f64Begin :: cmds ++ [.f64End]) ++ rest)) rfl
  refine ⟨t, hrun, htin, hlast.trans ?_⟩
  have hdigest : (cmds.foldl Banks.after (s.banks.after .f64Begin)).f64.product =
      fash64 Config.constants (cmds.flatMap Instr.f64Words) := by
    rw [foldl_after_f64 cmds _ hcmds]
    exact f64AbsorbAll_initial_product _ _
  rw [← hdigest]
  rfl

end Sys2Proof
end

section
/-!
PROOFS. The unit `fash256`: what each of its commands does lane by lane, how far a lane reaches, and the digest of any
stream (family 42).
-/
namespace Sys2Proof

open Machine

/-! ## One word, lane by lane -/

theorem f256Absorb_sum_get (c : Constants) (b : F256Bank) (w : Word) (i : Fin 4) :
    (f256Absorb c b w).sum[i] = b.sum[i] + (wideMul (b.result[i] ^^^ w) c.f256K[i]).high := by
  simp [f256Absorb]

/-- R102: a lane's low half meets the new sum of the lane before it. -/
theorem f256Absorb_result_get (c : Constants) (b : F256Bank) (w : Word) (i : Fin 4) :
    (f256Absorb c b w).result[i] =
      (wideMul (b.result[i] ^^^ w) c.f256K[i]).low ^^^ (f256Absorb c b w).sum[i - 1] := by
  simp only [f256Absorb, mixRing_mixed_get, prev_four]
  simp

/-- R102: a word equal to a lane's result leaves that lane zero to multiply. -/
theorem f256Absorb_of_eq_result (c : Constants) (b : F256Bank) {w : Word} {i : Fin 4} (h : w = b.result[i]) :
    (f256Absorb c b w).sum[i] = b.sum[i] ∧ (f256Absorb c b w).result[i] = (f256Absorb c b w).sum[i - 1] := by
  have hproduct : wideMul (b.result[i] ^^^ w) c.f256K[i] = ⟨0, 0⟩ := by
    rw [h, BitVec.xor_self, wideMul_zero_left]
  rw [f256Absorb_result_get, f256Absorb_sum_get, hproduct]
  exact ⟨BitVec.add_zero _, BitVec.zero_xor⟩

/-! ## How far a lane reaches -/

/-- Two banks hold the same two words in lane `i`. -/
def AgreeAtLane (b b' : F256Bank) (i : Fin 4) : Prop := b.result[i] = b'.result[i] ∧ b.sum[i] = b'.sum[i]

/-- R102: one word takes a lane's words from its own and the lane before it. -/
theorem AgreeAtLane.absorb {b b' : F256Bank} {i : Fin 4} (hown : AgreeAtLane b b' i)
    (hprev : AgreeAtLane b b' (i - 1)) (c : Constants) (w : Word) :
    AgreeAtLane (f256Absorb c b w) (f256Absorb c b' w) i := by
  obtain ⟨hresult, hsum⟩ := hown
  obtain ⟨hprevResult, hprevSum⟩ := hprev
  constructor
  · simp only [f256Absorb_result_get, f256Absorb_sum_get, hresult, hprevResult, hprevSum]
  · simp only [f256Absorb_sum_get, hresult, hsum]

/-- R13: a lane further back in the ring. -/
theorem lane_sub_succ (i : Fin 4) (d : Nat) : i - Fin.ofNat 4 (d + 1) = i - Fin.ofNat 4 d - 1 := by
  rw [← sub_add_eq_sub_sub, Fin.ofNat_add]
  rfl

/-- R106: every further word reaches one lane further back: the first of them is absorbed before the rest, which reach
one lane less. -/
theorem f256AbsorbAll_agreeAtLane (c : Constants) (ws : List Word) {b b' : F256Bank} {i : Fin 4}
    (h : ∀ d, d ≤ ws.length → AgreeAtLane b b' (i - Fin.ofNat 4 d)) :
    AgreeAtLane (f256AbsorbAll c b ws) (f256AbsorbAll c b' ws) i := by
  induction ws generalizing b b' with
  | nil => simpa [f256AbsorbAll] using h 0 (Nat.zero_le _)
  | cons w ws ih =>
    refine ih fun d hd => (h d (Nat.le_succ_of_le hd)).absorb ?_ c w
    rw [← lane_sub_succ]
    exact h (d + 1) (Nat.succ_le_succ hd)

/-- Settles O15: a block of k words absorbs k words, and so reaches k lanes back. -/
theorem fash256LaneReach : Obligations.Fash256LaneReach := by
  unfold Obligations.Fash256LaneReach
  intro s s' ws i h
  obtain ⟨hresult, -⟩ := f256AbsorbAll_agreeAtLane Config.constants ws h
  exact ⟨_, _, execF256Block_eq ws s, execF256Block_eq ws s', hresult⟩

/-! ## Absorbing words -/

theorem f256AbsorbAll_append (c : Constants) (b : F256Bank) (xs ys : List Word) :
    f256AbsorbAll c b (xs ++ ys) = f256AbsorbAll c (f256AbsorbAll c b xs) ys :=
  List.foldl_append

/-- R106: the digest is the four results that absorbing the words leaves, from the bank a `BEGIN` leaves. -/
theorem f256AbsorbAll_initial_result (c : Constants) (ws : List Word) :
    (f256AbsorbAll c (f256Initial c) ws).result = fash256 c ws := by
  rw [f256AbsorbAll_eq_fold]; rfl

/-- R26, R101 to R105: what a command but `F256.BEGIN` does to the bank is to absorb the words it feeds, if any. -/
theorem after_f256 (b : Banks) {i : Instr} (h : i ≠ .f256Begin) :
    (b.after i).f256 = f256AbsorbAll Config.constants b.f256 i.f256Words := by
  cases i with
  | f256Begin => exact absurd rfl h
  | _ => rfl

/-- R105, R106: however the words are split over commands, the bank absorbs them in order. -/
theorem foldl_after_f256 (is : List Instr) (b : Banks) (h : ∀ i ∈ is, i ≠ .f256Begin) :
    (is.foldl Banks.after b).f256 = f256AbsorbAll Config.constants b.f256 (is.flatMap Instr.f256Words) := by
  induction is generalizing b with
  | nil => rfl
  | cons i is ih =>
    obtain ⟨hi, his⟩ := List.forall_mem_cons.mp h
    rw [List.foldl_cons, ih _ his, after_f256 b hi, List.flatMap_cons, f256AbsorbAll_append]

/-! ## The four commands -/

/-- Settles O10: the bank `F256.BEGIN` writes is made of the constants alone. -/
theorem f256BeginRule : Obligations.F256BeginRule := by
  unfold Obligations.F256BeginRule
  intro s
  exact ⟨execF256Begin_eq s, performFrame_encode_eq_exec .f256Begin s,
    rejectsOtherCounts_header (op := .f256Begin) rfl s⟩

/-- Settles O11: the bank `F256.WORD` writes is the one of the lane equations above. -/
theorem f256WordRule : Obligations.F256WordRule := by
  unfold Obligations.F256WordRule
  intro w s
  refine ⟨⟨_, execF256Word_eq w s, ?_, ?_, ?_⟩, performFrame_encode_eq_exec (.f256Word w) s,
    rejectsOtherCounts_header (op := .f256Word) rfl s⟩
  · exact f256Absorb_sum_get _ _ w
  · exact f256Absorb_result_get _ _ w
  · exact fun i => f256Absorb_of_eq_result _ _

/-- R104: four words in lane order. -/
theorem toList_lanes_four (v : Lanes 4) : v.toList = [v[0], v[1], v[2], v[3]] := by
  obtain ⟨⟨l⟩, hlen⟩ := v
  match l, hlen with
  | [_, _, _, _], _ => rfl

/-- Settles O12: `F256.END` appends one response and writes nothing. -/
theorem f256EndRule : Obligations.F256EndRule := by
  unfold Obligations.F256EndRule
  intro s
  refine ⟨?_, performFrame_encode_eq_exec .f256End s, rejectsOtherCounts_header (op := .f256End) rfl s⟩
  rw [← toList_lanes_four]
  exact execF256End_eq s

/-- R105: two blocks one after the other leave the registers as one block of both lists does. -/
theorem after_f256Block_append (b : Banks) (xs ys : List Word) :
    b.after (.f256Block (xs ++ ys)) = (b.after (.f256Block xs)).after (.f256Block ys) :=
  congrArg (b.putBank .fash256) (f256AbsorbAll_append _ b.f256 xs ys)

/-- Settles O13: a block is a fold over its words, and folds join; only a bound makes its instruction ill formed. -/
theorem f256BlockRule : Obligations.F256BlockRule := by
  unfold Obligations.F256BlockRule
  intro ws s
  refine ⟨?_, execF256Block_eq [] s, fun w => ?_, fun xs ys => ?_, performFrame_encode_eq_exec (.f256Block ws) s,
    fun bound => ?_⟩
  · refine (execF256Block_eq ws s).trans ?_
    rw [f256AbsorbAll_eq_fold]
    rfl
  · exact (execF256Block_eq [w] s).trans (execF256Word_eq w s).symm
  · exact ⟨_, _, _, exec_eq_after _ s, exec_eq_after _ _, exec_eq_after _ s, after_f256Block_append s.banks xs ys⟩
  · refine (decodeWith_encode_eq_invalidArgument_iff (i := .f256Block ws)).trans ?_
    simp [Instr.wellFormedWith, blockFits]

/-! ## The digest of a stream -/

/-- Settles O14: `F256.END` answers from what the commands before it left the bank, and that is the words absorbed from
the eight constants. -/
theorem fash256DigestOfAnyStream : Obligations.Fash256DigestOfAnyStream := by
  unfold Obligations.Fash256DigestOfAnyStream
  intro s cmds rest hcmds
  obtain ⟨t, hrun, htin, hlast⟩ := run_commands_last (.f256Begin :: cmds) .f256End
    (s := waiting s (commandsOf (.f256Begin :: cmds ++ [.f256End]) ++ rest)) rfl
  refine ⟨t, hrun, htin, hlast.trans ?_⟩
  have hdigest : (cmds.foldl Banks.after (s.banks.after .f256Begin)).f256.result =
      fash256 Config.constants (cmds.flatMap Instr.f256Words) := by
    rw [foldl_after_f256 cmds _ hcmds]
    exact f256AbsorbAll_initial_result _ _
  rw [← hdigest]
  rfl

end Sys2Proof
end

section
/-!
PROOFS. The unit `rash64`: what each of its commands does, and the sequence drawn from a seed (family 43).
-/
namespace Sys2Proof

open Machine

/-! ## One command given again and again -/

/-- R44: `k` copies of a command at the head of the port are answered in turn, each from the bank the ones before it
left, and leave what `k` applications of the command to its bank leave. -/
theorem run_replicate (i : Instr) (k : Nat) {s : State} {rest : List Input}
    (hin : s.inbox = commandsOf (List.replicate k i) ++ rest) : ∃ t : State, runSteps k s = .next t ∧
      t.inbox = rest ∧
      t.responses = s.responses ++
        (List.range k).map (fun j => i.response (i.newBank^[j] (s.banks.bank i.op.block))) ∧
      t.banks.bank i.op.block = i.newBank^[k] (s.banks.bank i.op.block) := by
  induction k generalizing s with
  | zero => exact ⟨s, run_zero s, hin, (List.append_nil _).symm, rfl⟩
  | succ k ih =>
    have hstep := step_command (hin : s.inbox = .command (encode i) :: (commandsOf (List.replicate k i) ++ rest))
    obtain ⟨t, hrun, htin, hresponses, hbank⟩ := ih (s := ({ s with
      inbox := commandsOf (List.replicate k i) ++ rest, banks := s.banks.after i } : State).respond _) rfl
    refine ⟨t, (run_succ k s _ hstep).trans hrun, htin, ?_, ?_⟩
    · rw [hresponses]
      simp [Banks.after, List.range_succ_eq_map, Function.comp_def]
    · rw [hbank]
      simp [Banks.after]

/-- R44: one command, and then `k` copies of another, which find what the first left their unit. -/
theorem run_cons_replicate (i j : Instr) (k : Nat) {s : State} {rest : List Input}
    (hin : s.inbox = commandsOf (i :: List.replicate k j) ++ rest) : ∃ t : State, runSteps (k + 1) s = .next t ∧
      t.inbox = rest ∧
      t.responses = s.responses ++ i.response (s.banks.bank i.op.block) ::
        (List.range k).map (fun n => j.response (j.newBank^[n] ((s.banks.after i).bank j.op.block))) ∧
      t.banks.bank j.op.block = j.newBank^[k] ((s.banks.after i).bank j.op.block) := by
  have hstep := step_command (hin : s.inbox = .command (encode i) :: (commandsOf (List.replicate k j) ++ rest))
  obtain ⟨t, hrun, htin, hresponses, hbank⟩ := run_replicate j k (s := ({ s with
    inbox := commandsOf (List.replicate k j) ++ rest, banks := s.banks.after i } : State).respond _) rfl
  refine ⟨t, (run_succ k s _ hstep).trans hrun, htin, ?_, hbank⟩
  simp [hresponses]

/-! ## Drawing -/

/-- R114: the triple `(r, s, c)` that R114 writes a bank of the unit as. -/
def Machine.R64Bank.triple (b : R64Bank) : Word × Word × Word := (b.result, b.sum, b.counter)

/-- R113, R114: one draw of the bank is one `draw64` of its triple. -/
theorem triple_semiconj (c : Constants) : Function.Semiconj R64Bank.triple (r64Advance c) (draw64 c) :=
  fun b => by rw [r64Advance_eq_draw64]; rfl

/-- R114: element `k` of the sequence, counted from 0, is the result that `k + 1` draws leave. -/
theorem iterate_r64Advance_result (c : Constants) (v : Word) (k : Nat) :
    ((r64Advance c)^[k + 1] (r64Seeded c v)).result = rash64 c v k :=
  congrArg Prod.fst ((triple_semiconj c).iterate_right (k + 1) (r64Seeded c v))

/-- R113: the counter wraps. -/
theorem r64Advance_counter_toNat (c : Constants) (b : R64Bank) :
    (r64Advance c b).counter.toNat = (b.counter.toNat + 1) % 2 ^ 64 :=
  BitVec.toNat_add b.counter 1

theorem iterate_r64Advance_counter_toNat (c : Constants) (v : Word) (k : Nat) :
    ((r64Advance c)^[k] (r64Seeded c v)).counter.toNat = k % 2 ^ 64 := by
  induction k with
  | zero => rfl
  | succ k ih => rw [Function.iterate_succ_apply', r64Advance_counter_toNat, ih, Nat.mod_add_mod]

/-! ## The two commands -/

/-- Settles O16: the bank `R64.SEED` writes is made of its operand, a constant and zero. -/
theorem r64SeedRule : Obligations.R64SeedRule := by
  unfold Obligations.R64SeedRule
  intro value s
  exact ⟨execR64Seed_eq value s, performFrame_encode_eq_exec (.r64Seed value) s,
    rejectsOtherCounts_header (op := .r64Seed) rfl s⟩

/-- Settles O17: the counter after its increment is told by its number; a result equal to the counter leaves zero to
multiply. -/
theorem r64DrawRule : Obligations.R64DrawRule := by
  unfold Obligations.R64DrawRule
  intro s
  refine ⟨?_, ?_, performFrame_encode_eq_exec .r64Draw s, rejectsOtherCounts_header (op := .r64Draw) rfl s⟩
  · rw [← r64Advance_counter_toNat Config.constants, BitVec.ofNat_toNat, BitVec.setWidth_eq]
    exact execR64Draw_eq s
  · intro h
    simp [h, wideMul_zero_left]

/-! ## The sequence from a seed -/

/-- Settles O18: the draws are one command given `k` times to the bank the seed left. -/
theorem rash64SequenceFromSeed : Obligations.Rash64SequenceFromSeed := by
  unfold Obligations.Rash64SequenceFromSeed
  intro s v k rest
  obtain ⟨t, hrun, htin, hresponses, hbank⟩ := run_cons_replicate (.r64Seed v) .r64Draw k
    (s := waiting s (commandsOf (.r64Seed v :: List.replicate k .r64Draw) ++ rest)) rfl
  have hdraw (j : Nat) : Instr.r64Draw.response (Instr.r64Draw.newBank^[j] (r64Seeded Config.constants v)) =
      ⟨.ok, [rash64 Config.constants v j]⟩ := by
    rw [← iterate_r64Advance_result, Function.iterate_succ_apply']
    rfl
  refine ⟨t, hrun, htin, ?_, ?_⟩
  · rw [← funext hdraw]
    exact hresponses
  · rw [← iterate_r64Advance_counter_toNat Config.constants v k]
    exact congrArg (fun b : R64Bank => b.counter.toNat) hbank

end Sys2Proof
end

section
/-!
PROOFS. The unit `srash64`: the flat order of its seed and dump, a draw lane by lane, the sequence from a seed, and what
depends on the counter (family 44).
-/
namespace Sys2Proof

open Machine

/-! ## The flat order -/

/-- R24: a seed holds the words it loads at their flat indices. -/
theorem toList_get_flat (ws : Vector Word 16) (i : Fin 8) :
    ws.toList[2 * i.val]? = some (seedProducts ws)[i] ∧ ws.toList[2 * i.val + 1]? = some (seedSums ws)[i] := by
  have hi := i.isLt
  simp only [Fin.getElem_fin, seedProducts_get, seedSums_get, Vector.getElem?_toList]
  exact ⟨Vector.getElem?_eq_getElem (by omega), Vector.getElem?_eq_getElem (by omega)⟩

/-- R24, R126: a dump holds the words it returns at their flat indices. -/
theorem flatOrder_toList_get (p s : Lanes 8) (i : Fin 8) :
    (flatOrder p s).toList[2 * i.val]? = some p[i] ∧ (flatOrder p s).toList[2 * i.val + 1]? = some s[i] := by
  simpa using toList_get_flat (flatOrder p s) i

/-- R24: every flat index is a lane's product or its sum. -/
@[simp] theorem flatOrder_seedProducts_seedSums (ws : Vector Word 16) :
    flatOrder (seedProducts ws) (seedSums ws) = ws := by
  ext1 j hj
  obtain ⟨i, rfl | rfl⟩ : ∃ i, j = 2 * i ∨ j = 2 * i + 1 := ⟨j / 2, by omega⟩
  · rw [flatOrder_product _ _ i (by omega), seedProducts_get _ i (by omega)]
  · rw [flatOrder_sum _ _ i (by omega), seedSums_get _ i (by omega)]

/-- R127: a dump leaves out the counter, and a seed sets it to 0. -/
theorem s64Seeded_flatOrder (b : S64Bank) : s64Seeded (flatOrder b.product b.sum) = { b with counter := 0 } := by
  simp [s64Seeded]

/-! ## One draw, lane by lane -/

/-- R123: the counter goes into lane 0 alone. -/
theorem s64Multiplicands_get (b : S64Bank) (i : Fin 8) :
    (s64Multiplicands b)[i] = if i = 0 then b.product[0] ^^^ b.counter else b.product[i] := by
  by_cases hi : i = 0
  · subst hi; simp [s64Multiplicands]
  · simp [s64Multiplicands, hi]

theorem s64Multiplicands_get_zero (b : S64Bank) : (s64Multiplicands b)[0] = b.product[0] ^^^ b.counter :=
  s64Multiplicands_get b 0

theorem s64Advance_sum_get (c : Constants) (b : S64Bank) (i : Fin 8) :
    (s64Advance c b).sum[i] = b.sum[i] + (wideMul (s64Multiplicands b)[i] c.s64K[i]).high :=
  mixRing_sum_get _ _ _ i.val i.isLt

/-- R123: a lane's low half meets the new sum of the lane before it. -/
theorem s64Advance_product_get (c : Constants) (b : S64Bank) (i : Fin 8) :
    (s64Advance c b).product[i] =
      (wideMul (s64Multiplicands b)[i] c.s64K[i]).low ^^^ (s64Advance c b).sum[i - 1] := by
  simp only [s64Advance, mixRing_mixed_get, prev_eight]

/-- R123: the counter wraps. -/
theorem s64Advance_counter_toNat (c : Constants) (b : S64Bank) :
    (s64Advance c b).counter.toNat = (b.counter.toNat + 1) % 2 ^ 64 :=
  BitVec.toNat_add b.counter 1

/-! ## The all-zero seed -/

/-- A bank is told by its lanes and its counter. -/
theorem Machine.S64Bank.ext_lanes {b b' : S64Bank} (hproduct : ∀ i : Fin 8, b.product[i] = b'.product[i])
    (hsum : ∀ i : Fin 8, b.sum[i] = b'.sum[i]) (hcounter : b.counter = b'.counter) : b = b' := by
  obtain ⟨product, sum, counter⟩ := b
  obtain rfl : product = b'.product := Vector.ext fun i h => hproduct ⟨i, h⟩
  obtain rfl : sum = b'.sum := Vector.ext fun i h => hsum ⟨i, h⟩
  exact congrArg (S64Bank.mk _ _) hcounter

/-- R121: the bank the all-zero seed leaves. -/
def Machine.S64Bank.zero : S64Bank := ⟨Vector.replicate 8 0, Vector.replicate 8 0, 0⟩

theorem s64Seeded_replicate_zero : s64Seeded (Vector.replicate 16 0) = .zero := by
  decide

theorem zero_sum_get : ∀ i : Fin 8, S64Bank.zero.sum[i] = 0#64 := by
  decide

theorem s64Multiplicands_zero_get : ∀ i : Fin 8, (s64Multiplicands .zero)[i] = 0#64 := by
  decide

theorem s64Advance_zero_sum_get (c : Constants) (i : Fin 8) : (s64Advance c .zero).sum[i] = 0#64 := by
  rw [s64Advance_sum_get, s64Multiplicands_zero_get, wideMul_zero_left, zero_sum_get]
  rfl

/-- R121: zero is multiplied in every lane, so a draw changes the counter alone. -/
theorem s64Advance_zero (c : Constants) : s64Advance c .zero = { S64Bank.zero with counter := 1 } := by
  refine S64Bank.ext_lanes (fun i => ?_) (fun i => ?_) rfl
  · rw [s64Advance_product_get, s64Multiplicands_zero_get, wideMul_zero_left, s64Advance_zero_sum_get]
    revert i; decide
  · rw [s64Advance_zero_sum_get]
    exact (zero_sum_get i).symm

theorem s64Advance_seeded_replicate_zero (c : Constants) :
    s64Advance c (s64Seeded (Vector.replicate 16 0)) = { S64Bank.zero with counter := 1 } := by
  rw [s64Seeded_replicate_zero, s64Advance_zero]

/-! ## The three commands -/

/-- R121, R123: what a command does to the counter. -/
theorem after_s64_counter (b : Banks) (i : Instr) : (b.after i).s64.counter = 0 ∨
    (b.after i).s64.counter = b.s64.counter ∨ (b.after i).s64.counter = b.s64.counter + 1 := by
  cases i with
  | s64Seed seeds =>
    by_cases hlen : seeds.length = 16
    · rw [Banks.after, newBank_s64Seed _ hlen]
      exact .inl rfl
    · rw [Banks.after, newBank_s64Seed_reject _ hlen]
      exact .inr (.inl rfl)
  | s64Draw => exact .inr (.inr rfl)
  | _ => exact .inr (.inl rfl)

/-- Settles O19: the seed is the vector of its words; the counter is looked at in every command. -/
theorem s64SeedRule : Obligations.S64SeedRule := by
  unfold Obligations.S64SeedRule
  refine ⟨fun ws s hlen => ?_, fun ws s hlen => ?_, fun s => ?_, fun i s => ?_, fun s => ?_⟩
  · obtain ⟨v, rfl⟩ := seed_vector ws hlen
    exact ⟨⟨_, execS64Seed_eq v s, toList_get_flat v, rfl⟩, performFrame_encode_eq_exec (.s64Seed v.toList) s⟩
  · exact ⟨execS64Seed_reject ws s hlen, rejectsOtherCounts_header (op := .s64Seed) rfl s ws hlen⟩
  · have hbank := s64Advance_seeded_replicate_zero Config.constants
    exact ⟨_, _, execS64Seed_eq (Vector.replicate 16 0) s, execS64Draw_eq _, hbank,
      congrArg (fun b : S64Bank => (s.responses ++ [⟨.ok, []⟩]) ++ [⟨.ok, [s64Output b.product]⟩]) hbank⟩
  · exact ⟨_, exec_eq_after i s, after_s64_counter s.banks i⟩
  · exact ⟨_, _, execS64Dump_eq s, rfl, Vector.length_toList⟩

/-- Settles O20: the bank `S64.DRAW` writes is the one of the lane equations above. -/
theorem s64DrawRule : Obligations.S64DrawRule := by
  unfold Obligations.S64DrawRule
  intro s
  simp only [← s64Multiplicands_get]
  exact ⟨⟨_, execS64Draw_eq s, s64Advance_sum_get _ _, s64Advance_product_get _ _, s64Advance_counter_toNat _ _⟩,
    performFrame_encode_eq_exec .s64Draw s, rejectsOtherCounts_header (op := .s64Draw) rfl s⟩

/-- R126: a dump straight after a seed. -/
theorem execS64Dump_of_seeded {s : State} {ws : Vector Word 16} (h : s.banks.s64 = s64Seeded ws) :
    execS64Dump s = .next (s.ok ws.toList) := by
  rw [execS64Dump_eq, h, s64Seeded, flatOrder_seedProducts_seedSums]

/-- Settles O21: `S64.DUMP` appends one response and writes nothing; loading a seed and dumping it are inverse. -/
theorem s64DumpRule : Obligations.S64DumpRule := by
  unfold Obligations.S64DumpRule
  intro s
  refine ⟨⟨_, execS64Dump_eq s, Vector.length_toList, flatOrder_toList_get _ _⟩, fun ws hlen => ?_,
    performFrame_encode_eq_exec .s64Dump s, rejectsOtherCounts_header (op := .s64Dump) rfl s⟩
  obtain ⟨v, rfl⟩ := seed_vector ws hlen
  exact ⟨_, execS64Seed_eq v s, execS64Dump_of_seeded rfl⟩

/-! ## The sequence from a seed -/

/-- R128: the triple `(p, s, c)` that R128 writes a bank of the unit as. -/
def Machine.S64Bank.triple (b : S64Bank) : Lanes 8 × Lanes 8 × Word := (b.product, b.sum, b.counter)

/-- R123, R128: one draw of the bank is one `draw8` of its triple. -/
theorem s64Triple_semiconj (c : Constants) : Function.Semiconj S64Bank.triple (s64Advance c) (draw8 c) :=
  fun b => by rw [s64Advance_eq_draw8]; rfl

/-- R128: the k-th iterate is what `k` draws leave from the bank a seed leaves. -/
theorem triple_iterate_s64Advance (c : Constants) (ws : Vector Word 16) (k : Nat) :
    ((s64Advance c)^[k] (s64Seeded ws)).triple = srash64State c ws k :=
  (s64Triple_semiconj c).iterate_right k (s64Seeded ws)

theorem iterate_s64Advance_product (c : Constants) (ws : Vector Word 16) (k : Nat) :
    ((s64Advance c)^[k] (s64Seeded ws)).product = (srash64State c ws k).1 :=
  congrArg Prod.fst (triple_iterate_s64Advance c ws k)

theorem iterate_s64Advance_sum (c : Constants) (ws : Vector Word 16) (k : Nat) :
    ((s64Advance c)^[k] (s64Seeded ws)).sum = (srash64State c ws k).2.1 :=
  congrArg (fun x => x.2.1) (triple_iterate_s64Advance c ws k)

/-- R128: element `k` of the sequence, counted from 0, is the output of the products that `k + 1` draws leave. -/
theorem iterate_s64Advance_output (c : Constants) (ws : Vector Word 16) (k : Nat) :
    s64Output ((s64Advance c)^[k + 1] (s64Seeded ws)).product = srash64 c ws k := by
  rw [iterate_s64Advance_product]
  rfl

theorem iterate_s64Advance_counter_toNat (c : Constants) (ws : Vector Word 16) (k : Nat) :
    ((s64Advance c)^[k] (s64Seeded ws)).counter.toNat = k % 2 ^ 64 := by
  induction k with
  | zero => rfl
  | succ k ih => rw [Function.iterate_succ_apply', s64Advance_counter_toNat, ih, Nat.mod_add_mod]

/-- A run and then one more command, which waits first where the run ends. -/
theorem run_then_command {k : Nat} {s mid : State} {i : Instr} {rest : List Input}
    (hrun : runSteps k s = .next mid) (hin : mid.inbox = .command (encode i) :: rest) :
    runSteps (k + 1) s = .next (({ mid with inbox := rest, banks := mid.banks.after i } : State).respond
      (i.response (mid.banks.bank i.op.block))) :=
  (run_add k 1 s mid hrun).trans (run_succ 0 mid _ (step_command hin))

/-- R121: the bank after a seed of 16 words. -/
theorem after_s64Seed (b : Banks) (ws : Vector Word 16) : (b.after (.s64Seed ws.toList)).s64 = s64Seeded ws :=
  newBank_s64Seed _ Vector.length_toList

/-- R61, R122: the response to a seed of 16 words. -/
theorem response_s64Seed_toList (ws : Vector Word 16) (b : (Instr.s64Seed ws.toList).op.block.Bank) :
    (Instr.s64Seed ws.toList).response b = ⟨.ok, []⟩ := by
  rw [response_s64Seed, if_pos Vector.length_toList]

/-- R123: what `k` draws answer, from the bank they find. -/
def drawResponses (k : Nat) (b : S64Bank) : List Response :=
  (List.range k).map fun j => ⟨.ok, [s64Output ((s64Advance Config.constants)^[j + 1] b).product]⟩

@[simp] theorem drawResponses_length (k : Nat) (b : S64Bank) : (drawResponses k b).length = k := by
  simp [drawResponses]

/-- R128: the draws after a seed return the elements of the sequence. -/
theorem drawResponses_s64Seeded (k : Nat) (ws : Vector Word 16) : drawResponses k (s64Seeded ws) =
    (List.range k).map (fun j => ⟨.ok, [srash64 Config.constants ws j]⟩) := by
  simp only [drawResponses, iterate_s64Advance_output]

/-- R44: a command and `k` draws, which find the bank `b` the command left. -/
theorem run_cons_draws (i : Instr) (k : Nat) {s : State} {rest : List Input} {b : S64Bank}
    (hb : (s.banks.after i).s64 = b) (hin : s.inbox = commandsOf (i :: List.replicate k .s64Draw) ++ rest) :
    ∃ t : State, runSteps (k + 1) s = .next t ∧ t.inbox = rest ∧
      t.responses = s.responses ++ i.response (s.banks.bank i.op.block) :: drawResponses k b ∧
      t.banks.s64 = (s64Advance Config.constants)^[k] b := by
  obtain ⟨t, hrun, htin, hresponses, hbank⟩ := run_cons_replicate i .s64Draw k hin
  have hdraw (j : Nat) : Instr.s64Draw.response (Instr.s64Draw.newBank^[j] b) =
      ⟨.ok, [s64Output ((s64Advance Config.constants)^[j + 1] b).product]⟩ := by
    rw [Function.iterate_succ_apply']
    rfl
  subst hb
  refine ⟨t, hrun, htin, ?_, hbank⟩
  rw [drawResponses, ← funext hdraw]
  exact hresponses

/-- Settles O22: the dump answers from the bank the seed and the draws left, which is the iterate's triple. -/
theorem srash64SequenceFromSeed : Obligations.Srash64SequenceFromSeed := by
  unfold Obligations.Srash64SequenceFromSeed
  intro s ws k rest
  obtain ⟨mid, hrun, hin, hresponses, hbank⟩ := run_cons_draws (.s64Seed ws.toList) k
    (s := waiting s (commandsOf (.s64Seed ws.toList :: List.replicate k .s64Draw ++ [.s64Dump]) ++ rest))
    (rest := .command (encode .s64Dump) :: rest) (after_s64Seed s.banks ws) (by simp [commandsOf])
  rw [response_s64Seed_toList, drawResponses_s64Seeded] at hresponses
  refine ⟨_, run_then_command hrun hin, rfl, ⟨(flatOrder mid.banks.s64.product mid.banks.s64.sum).toList, ?_,
    Vector.length_toList, ?_⟩, ?_⟩
  · exact congrArg (· ++ _) hresponses
  · rw [← iterate_s64Advance_product, ← iterate_s64Advance_sum, ← hbank]
    exact flatOrder_toList_get _ _
  · rw [← iterate_s64Advance_counter_toNat Config.constants ws k, ← hbank]
    rfl

/-! ## Seeding with a dump -/

theorem counter_zero_eq_self_iff (b : S64Bank) : { b with counter := 0 } = b ↔ b.counter = 0 := by
  constructor
  · intro h
    exact (congrArg S64Bank.counter h).symm
  · intro h
    rw [← h]

/-- Settles O23: what the seed restores is the dumped bank with counter 0, which XORs nothing into lane 0. -/
theorem seedOfDumpRestoresAllButCounter : Obligations.SeedOfDumpRestoresAllButCounter := by
  unfold Obligations.SeedOfDumpRestoresAllButCounter
  intro s other
  refine ⟨_, _, execS64Dump_eq s, execS64Seed_eq _ other, ?_⟩
  simp only [ok_banks, setS64_s64, s64Seeded_flatOrder]
  refine ⟨trivial, counter_zero_eq_self_iff _, fun hcounter h => hcounter ?_⟩
  rw [s64Multiplicands_get_zero, s64Multiplicands_get_zero] at h
  exact ((BitVec.xor_right_inj _).mp h).symm

/-- Settles O24: the seed gives the other state the bank the dump left, and the draws read that bank alone. -/
theorem checkpointAtCounterZeroContinues : Obligations.CheckpointAtCounterZeroContinues := by
  unfold Obligations.CheckpointAtCounterZeroContinues
  intro orig fresh k hzero
  have hseeded : s64Seeded (flatOrder orig.banks.s64.product orig.banks.s64.sum) = orig.banks.s64 := by
    rw [s64Seeded_flatOrder, counter_zero_eq_self_iff, hzero]
  obtain ⟨t, ht, -, htr, htb⟩ := run_cons_draws .s64Dump k
    (s := waiting orig (commandsOf (.s64Dump :: List.replicate k .s64Draw))) rfl (List.append_nil _).symm
  obtain ⟨u, hu, -, hur, hub⟩ := run_cons_draws (.s64Seed _) k
    (s := waiting fresh (commandsOf (.s64Seed _ :: List.replicate k .s64Draw)))
    ((after_s64Seed _ _).trans hseeded) (List.append_nil _).symm
  rw [response_s64Seed_toList] at hur
  exact ⟨_, t, u, _, ht, hu, htr, hur, drawResponses_length k _, hub.trans htb.symm⟩

/-! ## How far the counter reaches -/

/-- Two banks hold the same product in every lane above `j`, and the same sum in lane `j` and every lane above it. -/
def AgreeAbove (j : Nat) (b b' : S64Bank) : Prop :=
  (∀ i : Fin 8, j < i.val → b.product[i] = b'.product[i]) ∧ (∀ i : Fin 8, j ≤ i.val → b.sum[i] = b'.sum[i])

theorem lane_ne_zero_of_lt {i : Fin 8} {j : Nat} (h : j < i.val) : i ≠ 0 :=
  fun hzero => by simp [hzero] at h

/-- R123: a draw takes a lane's sum from the lane's own words, and its product from those and the sum of the lane
before; the counter enters in lane 0, which is above no lane. -/
theorem AgreeAbove.advance {j : Nat} {b b' : S64Bank} (h : AgreeAbove j b b') (c : Constants) :
    AgreeAbove (j + 1) (s64Advance c b) (s64Advance c b') := by
  obtain ⟨hproduct, hsum⟩ := h
  have hmultiplicand (i : Fin 8) (hi : j < i.val) : (s64Multiplicands b)[i] = (s64Multiplicands b')[i] := by
    have hne := lane_ne_zero_of_lt hi
    rw [s64Multiplicands_get, s64Multiplicands_get, if_neg hne, if_neg hne, hproduct i hi]
  have hnewSum (i : Fin 8) (hi : j + 1 ≤ i.val) : (s64Advance c b).sum[i] = (s64Advance c b').sum[i] := by
    rw [s64Advance_sum_get, s64Advance_sum_get, hmultiplicand i hi, hsum i (Nat.le_of_succ_le hi)]
  refine ⟨fun i hi => ?_, hnewSum⟩
  have hprev : (i - 1).val = i.val - 1 := Fin.val_sub_one_of_ne_zero (lane_ne_zero_of_lt hi)
  rw [s64Advance_product_get, s64Advance_product_get, hmultiplicand i (by omega), hnewSum (i - 1) (by omega)]

theorem AgreeAbove.iterate_advance {b b' : S64Bank} (h : AgreeAbove 0 b b') (c : Constants) (k : Nat) :
    AgreeAbove k ((s64Advance c)^[k] b) ((s64Advance c)^[k] b') := by
  induction k with
  | zero => exact h
  | succ k ih =>
    rw [Function.iterate_succ_apply', Function.iterate_succ_apply']
    exact ih.advance c

/-- Settles O25: banks that differ in the counter alone agree above lane 0, and each draw costs one lane. -/
theorem counterReachesOneLaneADraw : Obligations.CounterReachesOneLaneADraw := by
  unfold Obligations.CounterReachesOneLaneADraw
  intro s n k s' draws
  obtain ⟨t, ht, -, -, htb⟩ := run_replicate .s64Draw (k + 1) (s := waiting s draws) (List.append_nil _).symm
  obtain ⟨t', ht', -, -, htb'⟩ := run_replicate .s64Draw (k + 1) (s := waiting s' draws) (List.append_nil _).symm
  have hstart : AgreeAbove 0 s.banks.s64 s'.banks.s64 := ⟨fun _ _ => rfl, fun _ _ => rfl⟩
  have hend : AgreeAbove (k + 1) t.banks.s64 t'.banks.s64 := by
    rw [show t.banks.s64 = _ from htb, show t'.banks.s64 = _ from htb']
    exact hstart.iterate_advance Config.constants (k + 1)
  exact ⟨t, t', ht, ht', hend⟩

end Sys2Proof
end

section
/-!
PROOFS. The two rejections, that nothing else stops or rejects a command, and the two counters (family 60).
-/
namespace Sys2Proof

open Machine

/-! ## What is rejected for its operands, and what is not -/

/-- R59, R143: under a header that names an operation, a frame is rejected exactly for a count that will not do. -/
theorem decodeWith_eq_invalidArgument_iff {bound : Option Nat} {f : Frame} {op : Op}
    (h : opOfHeader f.hdr = some op) :
    decodeWith bound f = .invalidArgument ↔ ¬ op.accepts bound f.operands.length = true := by
  refine ⟨fun hinvalid haccepts => ?_, decodeWith_of_not_accepts h⟩
  obtain ⟨i, rfl, hwf⟩ := exists_encode_of_accepts h haccepts
  cases (decodeWith_encode hwf).symm.trans hinvalid

/-- R143: a frame with a count its operation accepts is performed, whatever its operand words are. -/
theorem performFrame_answers_ok {f : Frame} {op : Op} (h : opOfHeader f.hdr = some op)
    (ha : op.accepts Config.maxBlockLen f.operands.length = true) (s : State) :
    ∃ (t : State) (q : List Word), performFrame f s = .next t ∧ t.responses = s.responses ++ [⟨.ok, q⟩] := by
  obtain ⟨i, rfl, hwf⟩ := exists_encode_of_accepts h ha
  rw [performFrame_encode hwf]
  exact exec_answers_ok hwf s

/-- Settles O29: each row is an operation's, and which counts the operation accepts decides all three clauses. -/
theorem wrongCountIsInvalidArgument : Obligations.WrongCountIsInvalidArgument := by
  unfold Obligations.WrongCountIsInvalidArgument
  intro row hrow ws s
  obtain ⟨op, rfl⟩ := mem_opcodeRows.mp hrow
  refine ⟨?_, ?_, ?_⟩
  · intro n hn hlen
    exact rejectsOtherCounts_header hn s ws hlen
  · intro hcount
    refine performFrame_answers_ok (f := ⟨op.header, ws⟩) (opOfHeader_header op) (Op.accepts_iff.mpr ?_) s
    obtain hblock | hfixed := hcount
    · exact .inr ⟨hblock, nofun⟩
    · exact .inl hfixed
  · intro bound (hblock : op.operandCount = none)
    have hcount : (¬ op.accepts (some bound) ws.length = true) ↔ bound < ws.length := by
      simp [Op.accepts_iff, hblock]
    exact (decodeWith_eq_invalidArgument_iff (f := ⟨op.header, ws⟩) (opOfHeader_header op)).trans hcount

/-- Settles O43: by whether the instruction is well formed. -/
theorem wellFormedCommandsAnswerOk : Obligations.WellFormedCommandsAnswerOk := by
  unfold Obligations.WellFormedCommandsAnswerOk
  intro i s
  exact ⟨fun hwf => exec_answers_ok hwf s, fun hill => exec_of_not_wellFormed hill s⟩

/-! ## Runs -/

/-- R29, R44: a step from states that differ in the earlier responses alone does and answers the same. -/
theorem step_of_responses (s : State) (p p' : List Response) : ∃ (t : State) (new : List Response),
    step { s with responses := p } = .next { t with responses := p ++ new } ∧
    step { s with responses := p' } = .next { t with responses := p' ++ new } := by
  obtain ⟨banks, inbox, -, resets⟩ := s
  cases inbox with
  | nil =>
    refine ⟨⟨banks, [], p, resets⟩, [], ?_, ?_⟩ <;> rw [List.append_nil] <;> exact step_idle _ rfl
  | cons e rest =>
    rw [step_input _ e rest rfl, step_input _ e rest rfl]
    cases e with
    | command f =>
      obtain ⟨b, r, h, h'⟩ := performFrame_answers f ⟨banks, rest, p, resets⟩ ⟨banks, rest, p', resets⟩ rfl
      exact ⟨⟨b, rest, p, resets⟩, [r], h, h'⟩
    | reset | resetDuring f =>
      refine ⟨State.afterReset ⟨banks, rest, p, resets⟩, [], ?_, ?_⟩ <;> rw [List.append_nil] <;> rfl

/-- R29, R44: so does a run of any length. -/
theorem run_of_responses (k : Nat) (s : State) (p p' : List Response) : ∃ (t : State) (new : List Response),
    runSteps k { s with responses := p } = .next { t with responses := p ++ new } ∧
    runSteps k { s with responses := p' } = .next { t with responses := p' ++ new } := by
  induction k generalizing s p p' with
  | zero =>
    refine ⟨s, [], ?_, ?_⟩ <;> rw [List.append_nil] <;> exact run_zero _
  | succ k ih =>
    obtain ⟨u, r, hstep, hstep'⟩ := step_of_responses s p p'
    obtain ⟨t, rs, hrun, hrun'⟩ := ih u (p ++ r) (p' ++ r)
    rw [List.append_assoc] at hrun hrun'
    exact ⟨t, r ++ rs, (run_succ k _ _ hstep).trans hrun, (run_succ k _ _ hstep').trans hrun'⟩

/-- Settles O34: a run answers a next state whatever the earlier responses, so with those it has. -/
theorem noRunStops : Obligations.NoRunStops := by
  unfold Obligations.NoRunStops
  intro k s
  obtain ⟨t, new, hrun, -⟩ := run_of_responses k s s.responses s.responses
  exact ⟨_, hrun⟩

/-- R141: the step that takes a frame the decoder rejects appends the status and does nothing else. -/
theorem step_of_rejected {f : Frame} {st : Status}
    (h : decode f = .invalidArgument ∧ st = .invalidArgument ∨ decode f = .illegalCommand ∧ st = .illegalCommand)
    (s : State) (rest : List Input) :
    step (waiting s (.command f :: rest)) = .next (answered (waiting s rest) st []) := by
  rw [step_input _ _ rest (waiting_inbox s _)]
  obtain ⟨hf, rfl⟩ | ⟨hf, rfl⟩ := h
  · exact performFrame_invalid _ hf
  · exact performFrame_illegal _ hf

/-- Settles O32: after the rejection the two runs differ in the earlier responses alone. -/
theorem rejectedCommandLeavesNoTrace : Obligations.RejectedCommandLeavesNoTrace := by
  unfold Obligations.RejectedCommandLeavesNoTrace
  intro s f rest st h
  have hstep := step_of_rejected h s rest
  refine ⟨hstep, fun k => ?_⟩
  obtain ⟨t, later, hwith, hwithout⟩ :=
    run_of_responses k (waiting s rest) (s.responses ++ [⟨st, []⟩]) s.responses
  exact ⟨_, _, later, (run_succ k _ _ hstep).trans hwith, hwithout, rfl, rfl, rfl, rfl, List.append_assoc ..⟩

/-! ## The counters -/

/-- R152: one more, modulo 2^64. -/
theorem ofNat_toNat_add_one (w : Word) : BitVec.ofNat 64 (w.toNat + 1) = w + 1 := by
  rw [BitVec.ofNat_add, BitVec.ofNat_toNat, BitVec.setWidth_eq]; rfl

theorem after_r64_counter (b : Banks) (i : Instr) : (b.after i).r64.counter =
    if i.op = .r64Draw then b.r64.counter + 1 else if i.op = .r64Seed then 0 else b.r64.counter := by
  cases i <;> rfl

theorem wellFormed_s64Seed_iff {seeds : List Word} :
    (Instr.s64Seed seeds).wellFormed = true ↔ seeds.length = 16 := by
  simp [Instr.wellFormed, Instr.wellFormedWith]

/-- R121, R122: a seed of a wrong count is not accepted and leaves the counter. -/
theorem after_s64_counter_eq (b : Banks) (i : Instr) : (b.after i).s64.counter =
    if i.op = .s64Draw then b.s64.counter + 1
    else if i.op = .s64Seed ∧ i.wellFormed = true then 0 else b.s64.counter := by
  cases i with
  | s64Seed seeds =>
    rw [if_neg (nofun : (Instr.s64Seed seeds).op ≠ .s64Draw), Banks.after]
    by_cases hlen : seeds.length = 16
    · rw [newBank_s64Seed _ hlen, if_pos ⟨rfl, wellFormed_s64Seed_iff.mpr hlen⟩]; rfl
    · rw [newBank_s64Seed_reject _ hlen, if_neg fun h => hlen (wellFormed_s64Seed_iff.mp h.2)]; rfl
  | _ => rfl

/-- Settles O46: a counter is a field of its own unit's bank, which the commands of other units leave. -/
theorem countersCountDrawsAlone : Obligations.CountersCountDrawsAlone := by
  unfold Obligations.CountersCountDrawsAlone
  intro i s
  rw [ofNat_toNat_add_one, ofNat_toNat_add_one]
  exact ⟨_, exec_eq_after i s, after_r64_counter s.banks i, after_s64_counter_eq s.banks i⟩

end Sys2Proof
end

section
/-!
PROOFS. After one `BEGIN` or `SEED` of every unit no register depends on what it held (family 70).
-/
namespace Sys2Proof

open Machine

/-- R44: commands that answer `OK` and no words from whatever bank they find answer so one after another. -/
theorem run_commands_ok (is : List Instr) {s : State} {rest : List Input} (hin : s.inbox = commandsOf is ++ rest)
    (hok : ∀ i ∈ is, ∀ b, i.response b = ⟨.ok, []⟩) : ∃ t : State, runSteps is.length s = .next t ∧
      t.banks = is.foldl Banks.after s.banks ∧ t.responses = s.responses ++ List.replicate is.length ⟨.ok, []⟩ := by
  induction is generalizing s with
  | nil => exact ⟨s, run_zero s, rfl, (List.append_nil _).symm⟩
  | cons i is ih =>
    obtain ⟨hi, his⟩ := List.forall_mem_cons.mp hok
    have hstep := step_command hin
    rw [hi] at hstep
    obtain ⟨t, hrun, hbanks, hresponses⟩ := ih (s := ({ s with
      inbox := commandsOf is ++ rest, banks := s.banks.after i } : State).respond ⟨.ok, []⟩) rfl his
    refine ⟨t, (run_succ _ s _ hstep).trans hrun, hbanks, ?_⟩
    rw [hresponses, respond_responses, List.append_assoc, List.singleton_append, List.length_cons,
      List.replicate_succ]

/-- R162: the set-up of every unit that has registers. -/
def setUpAll (v : Word) (ws : Vector Word 16) : List Instr :=
  [.f64Begin, .f256Begin, .r64Seed v, .s64Seed ws.toList]

theorem response_of_mem_setUpAll {v : Word} {ws : Vector Word 16} :
    ∀ i ∈ setUpAll v ws, ∀ b, i.response b = ⟨.ok, []⟩ := by
  simp only [setUpAll, List.forall_mem_cons]
  exact ⟨fun _ => rfl, fun _ => rfl, fun _ => rfl, response_s64Seed_toList ws, nofun⟩

/-- R121: a seed of 16 words writes the whole bank of its unit, and no other. -/
theorem after_s64Seed_eq (b : Banks) (ws : Vector Word 16) :
    b.after (.s64Seed ws.toList) = { b with s64 := s64Seeded ws } :=
  congrArg (b.putBank .srash64) (newBank_s64Seed _ Vector.length_toList)

/-- R162: each of the four banks is written from the constants and the seeds; none is left of `b`. -/
theorem foldl_after_setUpAll (b : Banks) (v : Word) (ws : Vector Word 16) :
    (setUpAll v ws).foldl Banks.after b =
      { f64 := f64Initial Config.constants, f256 := f256Initial Config.constants
        r64 := r64Seeded Config.constants v, s64 := s64Seeded ws } :=
  after_s64Seed_eq (((b.after .f64Begin).after .f256Begin).after (.r64Seed v)) ws

/-- Settles O48: the registers after the four set-ups are one expression without the registers before them. -/
theorem initialisationLeavesNothingUnspecified : Obligations.InitialisationLeavesNothingUnspecified := by
  unfold Obligations.InitialisationLeavesNothingUnspecified
  intro s s' v ws setup
  have hrun (s₀ : State) := run_commands_ok (setUpAll v ws) (s := waiting s₀ setup) (List.append_nil _).symm
    response_of_mem_setUpAll
  obtain ⟨t, ht, hbanks, hresponses⟩ := hrun s
  obtain ⟨t', ht', hbanks', -⟩ := hrun s'
  rw [foldl_after_setUpAll] at hbanks hbanks'
  exact ⟨t, t', ht, ht', hbanks.trans hbanks'.symm, hresponses⟩

end Sys2Proof
end
